-- ==== Sys2Proof/Word.lean ====
section
/-!
DEFINITION. The block's words: the widths of spec/00_scope.md R8 and R10 and spec/10_state.md R25, R36, R40.
A value is a bit vector where the spec treats it as bits (a register, a codeword, a field element that is xored); addresses,
counts, degrees and exponents are exact natural numbers (R11).
-/

namespace Sys2Proof

/-- One byte of the host window (R63). -/
abbrev Byte := BitVec 8

/-- A host-visible register, a command word, a bus datum: 32 bits (R25, R64, R80). -/
abbrev Word := BitVec 32

/-- One codeword-buffer entry, W_CW = 16 bits (R8, R40). -/
abbrev Codeword := BitVec 16

/-- A field element: 12 bits, the width of an EXP or LOG entry (R36, R37), enough for the largest SIZE = 4096 (R8, R100;
log 19). -/
abbrev Elem := BitVec 12

/-- The index of a polynomial register P0..P7, as a command's 3-bit register field names it (R22, R81). -/
abbrev PReg := Fin 8

/-- A polynomial value: its coefficients, highest degree first (R12). -/
abbrev PolyVal := List Elem

end Sys2Proof
end

