-- ==== Sys2Proof/Syntax.lean ====
section
/-!
DEFINITION. The commands of the opcode map (spec/30_encoding.md R85, spec/opcode_table.json): one constructor per row, with the
register fields the row uses (R81, R86). Scalar operands are not in the word: they come from the latch (R82, R83).
-/

namespace Sys2Proof

/-- One command. -/
inductive Instr where
  | gfCfg
  | gfAdd
  | gfMul
  | gfDiv
  | gfInv
  | gfExp
  | gfLog
  | polyLoad (rd : PReg)
  | polyStore (rs1 : PReg)
  | polyAdd (rd rs1 rs2 : PReg)
  | polyMul (rd rs1 rs2 : PReg)
  | polyMulmono (rd rs1 : PReg)
  | polyDiv (rd re rs1 rs2 : PReg)
  | polyCoef (rs1 : PReg)
  | polyDeg (rs1 : PReg)
  | polyIszero (rs1 : PReg)
  | polyEval (rs1 : PReg)
  | rsGen (rd : PReg)
  | rsEncode
  | rsSynd
  deriving DecidableEq, Repr

end Sys2Proof
end

