-- ==== Sys2Proof/WellFormed.lean ====
section
/-!
DEFINITION. Which commands have an encoding: every register field is in range by its type, and POLY_DIV names two different
destinations (spec/30_encoding.md R86).
-/

namespace Sys2Proof

/-- A legal command: POLY_DIV needs RD != RE, "because it writes two results and one register cannot hold both" (R86). -/
def Instr.wellFormed : Instr → Bool
  | .polyDiv rd re _ _ => rd != re
  | .gfCfg | .gfAdd | .gfMul | .gfDiv | .gfInv | .gfExp | .gfLog => true
  | .polyLoad _ | .polyStore _ | .polyAdd _ _ _ | .polyMul _ _ _ | .polyMulmono _ _ => true
  | .polyCoef _ | .polyDeg _ | .polyIszero _ | .polyEval _ => true
  | .rsGen _ | .rsEncode | .rsSynd => true

end Sys2Proof
end

