-- ==== Sys2Proof/Decode.lean ====
section
/-!
DEFINITION. Decoding and encoding a command word (spec/30_encoding.md R80 to R89, spec/opcode_table.json). The decoder is total on
32-bit words and refuses by name; the encoder is written from the same table.
-/

namespace Sys2Proof

/-- The OP values of R85, one per row of the opcode table. -/
inductive Opcode where
  | gfCfg | gfAdd | gfMul | gfDiv | gfInv | gfExp | gfLog
  | polyLoad | polyStore | polyAdd | polyMul | polyMulmono | polyDiv
  | polyCoef | polyDeg | polyIszero | polyEval
  | rsGen | rsEncode | rsSynd
  deriving DecidableEq, Repr

/-- Why a word is illegal (R87): each completes with E_ILLEGAL. -/
inductive DecodeError where
  /-- OP is not in the table of R85. -/
  | reservedOpcode
  /-- A reserved bit, or a register field the opcode does not use, is not 0 (R86). -/
  | reservedBits
  /-- POLY_DIV with RD = RE (R86). -/
  | sameDestination
  deriving DecidableEq, Repr

/-- The OP column of R85. -/
def Opcode.code : Opcode → BitVec 8
  | .gfCfg => 0x10 | .gfAdd => 0x11 | .gfMul => 0x12 | .gfDiv => 0x13
  | .gfInv => 0x14 | .gfExp => 0x15 | .gfLog => 0x16
  | .polyLoad => 0x20 | .polyStore => 0x21 | .polyAdd => 0x22 | .polyMul => 0x23
  | .polyMulmono => 0x24 | .polyDiv => 0x25 | .polyCoef => 0x26 | .polyDeg => 0x27
  | .polyIszero => 0x28 | .polyEval => 0x29
  | .rsGen => 0x30 | .rsEncode => 0x31 | .rsSynd => 0x32

/-- Every row of the table, in its order. -/
def Opcode.all : List Opcode :=
  [.gfCfg, .gfAdd, .gfMul, .gfDiv, .gfInv, .gfExp, .gfLog,
   .polyLoad, .polyStore, .polyAdd, .polyMul, .polyMulmono, .polyDiv,
   .polyCoef, .polyDeg, .polyIszero, .polyEval, .rsGen, .rsEncode, .rsSynd]

/-- Bits of the RD, RE, RS1 and RS2 fields (R89). -/
def maskRd : Word := 0x00000700
def maskRe : Word := 0x00007000
def maskRs1 : Word := 0x00070000
def maskRs2 : Word := 0x00700000

/-- "used_mask(op) is the OR of the bit masks of the fields op uses" (R89), the fields as R85 lists them. -/
def Opcode.usedMask : Opcode → Word
  | .gfCfg | .gfAdd | .gfMul | .gfDiv | .gfInv | .gfExp | .gfLog => 0
  | .polyLoad => maskRd
  | .polyStore => maskRs1
  | .polyAdd | .polyMul => maskRd ||| maskRs1 ||| maskRs2
  | .polyMulmono => maskRd ||| maskRs1
  | .polyDiv => maskRd ||| maskRe ||| maskRs1 ||| maskRs2
  | .polyCoef | .polyDeg | .polyIszero | .polyEval => maskRs1
  | .rsGen => maskRd
  | .rsEncode | .rsSynd => 0

/-- Operand assembly (R82): a 3-bit field of the word at bit `lo`, zero-extended to an index. -/
def regField (w : Word) (lo : Nat) : PReg := (w.extractLsb' lo 3).toFin

def fieldRd (w : Word) : PReg := regField w 8
def fieldRe (w : Word) : PReg := regField w 12
def fieldRs1 (w : Word) : PReg := regField w 16
def fieldRs2 (w : Word) : PReg := regField w 20

/-- The OP field `cmd[7:0]` (R81). -/
def fieldOp (w : Word) : BitVec 8 := w.extractLsb' 0 8

/-- The row of the table whose OP the word carries. -/
def Opcode.ofCode? (c : BitVec 8) : Option Opcode := Opcode.all.find? (fun o => o.code == c)

/-- The command of a row with the operands of the word. -/
def Opcode.build (o : Opcode) (w : Word) : Instr :=
  match o with
  | .gfCfg => .gfCfg
  | .gfAdd => .gfAdd
  | .gfMul => .gfMul
  | .gfDiv => .gfDiv
  | .gfInv => .gfInv
  | .gfExp => .gfExp
  | .gfLog => .gfLog
  | .polyLoad => .polyLoad (fieldRd w)
  | .polyStore => .polyStore (fieldRs1 w)
  | .polyAdd => .polyAdd (fieldRd w) (fieldRs1 w) (fieldRs2 w)
  | .polyMul => .polyMul (fieldRd w) (fieldRs1 w) (fieldRs2 w)
  | .polyMulmono => .polyMulmono (fieldRd w) (fieldRs1 w)
  | .polyDiv => .polyDiv (fieldRd w) (fieldRe w) (fieldRs1 w) (fieldRs2 w)
  | .polyCoef => .polyCoef (fieldRs1 w)
  | .polyDeg => .polyDeg (fieldRs1 w)
  | .polyIszero => .polyIszero (fieldRs1 w)
  | .polyEval => .polyEval (fieldRs1 w)
  | .rsGen => .rsGen (fieldRd w)
  | .rsEncode => .rsEncode
  | .rsSynd => .rsSynd

/-- The decoding checks of R89, in its order: the opcode, the reserved bits and unused fields, then RD != RE. -/
def decode (w : Word) : Except DecodeError Instr :=
  match Opcode.ofCode? (fieldOp w) with
  | none => .error .reservedOpcode
  | some o =>
    if w &&& ~~~ o.usedMask = o.code.setWidth 32 then
      if (o.build w).wellFormed then .ok (o.build w) else .error .sameDestination
    else .error .reservedBits

/-- The row of a command. -/
def Instr.opcode : Instr → Opcode
  | .gfCfg => .gfCfg
  | .gfAdd => .gfAdd
  | .gfMul => .gfMul
  | .gfDiv => .gfDiv
  | .gfInv => .gfInv
  | .gfExp => .gfExp
  | .gfLog => .gfLog
  | .polyLoad _ => .polyLoad
  | .polyStore _ => .polyStore
  | .polyAdd _ _ _ => .polyAdd
  | .polyMul _ _ _ => .polyMul
  | .polyMulmono _ _ => .polyMulmono
  | .polyDiv _ _ _ _ => .polyDiv
  | .polyCoef _ => .polyCoef
  | .polyDeg _ => .polyDeg
  | .polyIszero _ => .polyIszero
  | .polyEval _ => .polyEval
  | .rsGen _ => .rsGen
  | .rsEncode => .rsEncode
  | .rsSynd => .rsSynd

/-- A register index placed at bit `lo` of the word (R81). -/
def placeReg (r : PReg) (lo : Nat) : Word := BitVec.ofNat 32 r.val <<< lo

/-- The command's register operands, each in its field (R81, R90). -/
def Instr.operandBits : Instr → Word
  | .gfCfg | .gfAdd | .gfMul | .gfDiv | .gfInv | .gfExp | .gfLog => 0
  | .polyLoad rd => placeReg rd 8
  | .polyStore rs1 => placeReg rs1 16
  | .polyAdd rd rs1 rs2 => placeReg rd 8 ||| placeReg rs1 16 ||| placeReg rs2 20
  | .polyMul rd rs1 rs2 => placeReg rd 8 ||| placeReg rs1 16 ||| placeReg rs2 20
  | .polyMulmono rd rs1 => placeReg rd 8 ||| placeReg rs1 16
  | .polyDiv rd re rs1 rs2 => placeReg rd 8 ||| placeReg re 12 ||| placeReg rs1 16 ||| placeReg rs2 20
  | .polyCoef rs1 => placeReg rs1 16
  | .polyDeg rs1 => placeReg rs1 16
  | .polyIszero rs1 => placeReg rs1 16
  | .polyEval rs1 => placeReg rs1 16
  | .rsGen rd => placeReg rd 8
  | .rsEncode | .rsSynd => 0

/-- The word of a command, as the assembly table of R90 writes it. -/
def encode (i : Instr) : Word := i.opcode.code.setWidth 32 ||| i.operandBits

/-- The instruction the decoder reads from a word whose bits are numbered as the opcode table numbers them. Every command is
one 32-bit word (R80): bits at `nbits` and above are 0, and more than 32 bits are no command. -/
def decodeTableWord (nbits w : Nat) : Option Instr :=
  if nbits ≤ 32 then (decode (BitVec.ofNat 32 (w % 2 ^ nbits))).toOption else none

end Sys2Proof
end

