-- ==== Sys2Proof/Config.lean ====
section
/-!
DEFINITION. What a build of the block fixes (spec/00_scope.md R8) and the free values: every value the spec leaves unspecified
on a run that goes on (spec/93_implementation_defined.md) is an opaque constant here, so that no proof can rest on it.
-/

namespace Sys2Proof.Config

/-- Largest supported field width M_MAX (R8). -/
def mMax : Nat := 12

/-- NMAX: codeword-buffer entries, and the most coefficients a polynomial register holds (R8). -/
def nmax : Nat := 4096

/-- NP: the number of polynomial registers (R8). -/
def np : Nat := 8

/-- W_CW: the stored width of a codeword-buffer entry (R8). -/
def wCw : Nat := 16

/-- Window offset of CW[0] (R43, R62). -/
def cwBase : Nat := 0x4000

/-- The window spans 0x4000 + 4*NMAX bytes (R43, R60). -/
def windowBytes : Nat := cwBase + 4 * nmax

/-- BASE_ADDR: the OPEN parameter of R8 and R67, decided by the platform (I13; log 17); taken to be a
multiple of 4 (log 29). -/
opaque baseAddr : Nat

/-- The bus address of a window offset (R43, R60): the platform decodes it before the block sees the offset. -/
def busAddress (offset : Nat) : Nat := baseAddr + offset

/-- Free value: the n-th unspecified 32-bit datum of a bus read (R42, R61; I8; log 5, 6). -/
opaque freeWord : Nat → Word

/-- Free value: the n-th unspecified codeword left by an aborted command (R232; I10; log 8). -/
opaque freeEntry : Nat → Codeword

/-- Free value: whether the n-th host access that meets a running command is performed before its completion
(R207, R239; I11, I12; log 3). -/
opaque hostFirst : Nat → Bool

/-- Free value: what an unspecified EXP entry holds (R36; I3; log 10). -/
opaque freeExp : Nat → Elem

/-- Free value: what an unspecified LOG entry holds, LOG[0] among them (R37; I2, I3; log 10, 11). -/
opaque freeLog : Nat → Elem

end Sys2Proof.Config
end

