-- ==== Sys2Proof/Machine/State.lean ====
section
/-!
DEFINITION. The state of the block (spec/10_state.md R20 to R43), every piece of it as plain data, and the state after power-on
reset (spec/70_reset_and_hazards.md R231). `INVENTORY.md` lists each piece with its rule and reset value.
-/

namespace Sys2Proof.Machine

/-- The error codes of R200. -/
inductive ErrCode where
  /-- 0x00: the last completed command succeeded, or none has completed since reset. -/
  | noError
  /-- 0x01 E_ILLEGAL. -/
  | illegal
  /-- 0x02 E_NO_FIELD. -/
  | noField
  /-- 0x03 E_UNINIT. -/
  | uninit
  /-- 0x04 E_FIELD_INVALID. -/
  | fieldInvalid
  /-- 0x05 E_GF_ZERO. -/
  | gfZero
  /-- 0x06 E_POLY_DIV_ZERO. -/
  | polyDivZero
  /-- 0x07 E_ZERO_EC. -/
  | zeroEc
  /-- 0x08 E_INSUFFICIENT_DATA. -/
  | insufficientData
  /-- 0x09 E_EMPTY. -/
  | empty
  /-- 0x0A E_RANGE. -/
  | range
  /-- 0x0B E_CAPACITY. -/
  | capacity
  deriving DecidableEq, Repr

/-- Why the model stops. An error of the block is no fault: it is a next state with its code in STATUS (R204). -/
inductive Fault where
  /-- A command, or the host while the block is idle, reads codeword entry `a`, which nothing has written since power-on. Raised
  by the sequencer's MemRead and by the window read. Safe: "A model should make such a read a fault" (R233). -/
  | unwrittenCodeword (a : Nat)
  /-- A bus access at an offset that is not in the window. Raised by the window. Safe: such an access never reaches the block, its
  decoding is "left to the platform" (R67). -/
  | outsideWindow (offset : Nat)
  deriving DecidableEq, Repr

/-- Why the model gives no meaning. -/
inductive Refusal where
  /-- An instruction without a meaning, by its mnemonic: raised by an arm of `exec` alone. Safe. No arm raises it. -/
  | notModelled (mnemonic : String)
  deriving DecidableEq, Repr

/-- The registers a command takes its scalar operands from: ARG0..ARG3 (R25) and the stored bits of FIELD_M, FIELD_POLY and
FIELD_BASE (R27 to R29). The latch holds a snapshot of the same seven (R41). -/
structure OperandRegs where
  arg0 : Word
  arg1 : Word
  arg2 : Word
  arg3 : Word
  fieldM : BitVec 4
  fieldPoly : BitVec 13
  fieldBase : BitVec 12
  deriving DecidableEq, Repr

/-- The command latch (R41): the command being executed, and its operand snapshot. -/
structure Latch where
  word : Word
  args : OperandRegs
  deriving DecidableEq, Repr

/-- The latched field parameters AM, APOLY and ABASE (R38) and the two tables (R36, R37). `expTab` lists the specified entries
EXP[0], EXP[1], ...; `logTab` lists the specified entries LOG[1], LOG[2], ... (log 10, 11). -/
structure ActiveField where
  am : BitVec 4
  apoly : BitVec 13
  abase : BitVec 12
  expTab : List Elem
  logTab : List Elem
  deriving DecidableEq, Repr

/-- The codeword buffer's bytes, by window offset (R63; log 18). -/
abbrev Memory := List Host.Cell

/-- Widths of a bus access (R61). -/
inductive Width where
  | byte
  | half
  | word
  deriving DecidableEq, Repr

/-- One host bus access, at an offset from BASE_ADDR (R60, R61). A narrow write carries 32 bits too; it is refused (log 25). -/
inductive Access where
  | read (width : Width) (offset : Nat)
  | write (width : Width) (offset : Nat) (value : Word)
  deriving DecidableEq, Repr

/-- What the world outside the block does next (log 1). -/
inductive Event where
  /-- A bus access (R60). -/
  | access (a : Access)
  /-- The host polls STATUS until BUSY reads 0: the pseudo-instruction `wait` (R92; log 4). -/
  | wait
  /-- The platform asserts the power-on reset input (R230; log 21). -/
  | powerOnReset
  deriving DecidableEq, Repr

/-- What the bus answers to an access (log 26). -/
inductive Response where
  /-- A read's datum. -/
  | data (value : Word)
  /-- A write was taken (performed, ignored or dropped: the bus shows no difference). -/
  | done
  /-- The bus error of a read, with its unspecified datum (R61). -/
  | readError (value : Word)
  /-- The bus error of a write (R61). -/
  | writeError
  deriving DecidableEq, Repr

/-- The state of the block. STATUS.BUSY is "the latch holds a command" (R41), PV[i] is "polys[i] holds a value" (R23) and
CACHE_DEG is "len(CACHE) - 1" (R35). The last three fields are the model's own (log 1, 24). -/
structure State where
  /-- P0..P7 with PV[0..7] (R22, R23; log 12). -/
  polys : Vector (Option PolyVal) 8
  /-- ARG0..ARG3, FIELD_M, FIELD_POLY, FIELD_BASE (R25, R27 to R29). -/
  regs : OperandRegs
  /-- RESULT (R26). -/
  result : Word
  /-- STATUS.ERR (R34). -/
  err : Bool
  /-- STATUS.ERRCODE (R34, R200). -/
  errCode : ErrCode
  /-- STATUS.FIELD_VALID (R34, R38). -/
  fieldValid : Bool
  /-- STATUS.OVERRUN (R34). -/
  overrun : Bool
  /-- The active field (R36 to R38). -/
  field : ActiveField
  /-- The generator cache (R39). -/
  cache : List PolyVal
  /-- The codeword buffer (R40). -/
  cw : Memory
  /-- The command latch (R41; log 13). -/
  latch : Option Latch
  /-- The host accesses, waits and power-on resets still to come. -/
  pending : List Event
  /-- The bus responses given, newest first. -/
  responses : List Response
  /-- How many free values the run has consumed. -/
  draws : Nat
  deriving DecidableEq, Repr

/-- The operand registers after reset (R25, R27 to R29). -/
def OperandRegs.reset : OperandRegs :=
  { arg0 := 0, arg1 := 0, arg2 := 0, arg3 := 0, fieldM := 0, fieldPoly := 0, fieldBase := 0 }

/-- The active field after reset: AM, APOLY and ABASE are unspecified (R38) and hold 0 (DESIGN CHOICE, log 9); every table entry
is unspecified (R36, R37) and none is listed (log 10). -/
def ActiveField.reset : ActiveField := { am := 0, apoly := 0, abase := 0, expTab := [], logTab := [] }

/-- The generator cache's seed `[[1]]` (R39). -/
def cacheSeed : List PolyVal := [[1]]

/-- Power-on reset (R231). Nothing is pending: the block "waits for a command" (R230). -/
def State.reset : State :=
  { polys := Vector.replicate 8 none
    regs := OperandRegs.reset
    result := 0
    err := false
    errCode := .noError
    fieldValid := false
    overrun := false
    field := ActiveField.reset
    cache := cacheSeed
    cw := []
    latch := none
    pending := []
    responses := []
    draws := 0 }

end Sys2Proof.Machine
end

