-- ==== Sys2Proof/Machine/Flags.lean ====
section
/-!
DEFINITION. The STATUS word and every flag's rule (spec/10_state.md R34, spec/60_exceptions.md R200, R203, R208). These bits are
the block's only flags: "it has no condition codes" (R34).
-/

namespace Sys2Proof.Machine

/-- The code column of R200. -/
def ErrCode.code : ErrCode → BitVec 8
  | .noError => 0x00
  | .illegal => 0x01
  | .noField => 0x02
  | .uninit => 0x03
  | .fieldInvalid => 0x04
  | .gfZero => 0x05
  | .polyDivZero => 0x06
  | .zeroEc => 0x07
  | .insufficientData => 0x08
  | .empty => 0x09
  | .range => 0x0A
  | .capacity => 0x0B

/-- STATUS.BUSY (R34, R41). -/
def State.busy (s : State) : Bool := s.latch.isSome

/-- The STATUS word: ERRCODE in [15:8], OVERRUN, FIELD_VALID, ERR and BUSY in [3:0], every other bit 0 (R34). -/
def State.statusWord (s : State) : Word :=
  0#16 ++ s.errCode.code ++ 0#4 ++ BitVec.ofBool s.overrun ++ BitVec.ofBool s.fieldValid ++ BitVec.ofBool s.err
    ++ BitVec.ofBool s.busy

/-- Acceptance of a command word (R208): the latch takes the word and the operand snapshot, ERR and ERRCODE are cleared, and BUSY
is set. -/
def State.accept (s : State) (w : Word) : State :=
  { s with latch := some { word := w, args := s.regs }, err := false, errCode := .noError }

/-- Successful completion (R203): BUSY is cleared; ERR and ERRCODE are 0 (log 15). -/
def State.complete (s : State) : State :=
  { s with latch := none, err := false, errCode := .noError }

/-- Completion with an error (R203): BUSY is cleared, ERR is set and ERRCODE holds the code. -/
def State.fail (s : State) (e : ErrCode) : State :=
  { s with latch := none, err := true, errCode := e }

/-- A dropped write sets OVERRUN (R42). -/
def State.setOverrun (s : State) : State := { s with overrun := true }

/-- CTRL.CLR_OVR (R33). -/
def State.clearOverrun (s : State) : State := { s with overrun := false }

end Sys2Proof.Machine
end

