-- ==== Sys2Proof/Machine/Ops.lean ====
section
/-!
DEFINITION. The named operations over memory and registers, and the one shared way a command ends: `complete` or
`raise Error(code)` (spec/00_scope.md R13, R14; spec/60_exceptions.md R201 to R205: the block takes no trap and returns from none,
an error is a completion with its code in STATUS).
-/

namespace Sys2Proof.Machine

/-- Why a command's pseudocode stops before its end: `raise Error(code)` (R14), or a read of a codeword nothing has written. -/
inductive Stop where
  | error (e : ErrCode)
  | fault (f : Fault)
  deriving DecidableEq, Repr

/-- `raise Error(code)` (R14). -/
def raise {α : Type} (e : ErrCode) : Except Stop α := .error (.error e)

/-- `if c: raise Error(code)`. -/
def raiseIf (c : Prop) [Decidable c] (e : ErrCode) : Except Stop Unit := if c then raise e else .ok ()

/-- How a command that computed `r` from `s` ends. An error "changes nothing except STATUS.BUSY, ERR and ERRCODE" (R201): the
state it leaves is the state the command started from. -/
def finish (s : State) (r : Except Stop State) : Host.Outcome State Fault Refusal :=
  match r with
  | .ok t => .next t.complete
  | .error (.error e) => .next (s.fail e)
  | .error (.fault f) => .fault f

/-! ### The codeword buffer (R40, R62, R63) -/

/-- The byte at a window offset, if anything has written it. -/
def memGet : Memory → Nat → Option Byte
  | [], _ => none
  | (k, b) :: rest, a => if k = a then some b else memGet rest a

/-- Write one byte, keeping the addresses strictly rising. -/
def memSet : Memory → Nat → Byte → Memory
  | [], a, v => [(a, v)]
  | (k, b) :: rest, a, v =>
    if a < k then (a, v) :: (k, b) :: rest
    else if a = k then (a, v) :: rest
    else (k, b) :: memSet rest a v

/-- The canonical form: addresses strictly rising. An unlisted byte holds no value (R233), so there is no default to leave out. -/
def Memory.wf : Memory → Bool
  | [] => true
  | (k, _) :: rest => rest.all (fun c => decide (k < c.1)) && Memory.wf rest

/-- Window offset of CW[a] (R62). -/
def entryOffset (a : Nat) : Nat := Config.cwBase + 4 * a

/-- CW[a], if it holds a value: its bits [7:0] and [15:8] are the bytes at its offset and the next (R63). -/
def cwGet (m : Memory) (a : Nat) : Option Codeword :=
  match memGet m (entryOffset a), memGet m (entryOffset a + 1) with
  | some lo, some hi => some (hi ++ lo)
  | _, _ => none

/-- `CW[a] <- v` (R13, R62). -/
def cwSet (m : Memory) (a : Nat) (v : Codeword) : Memory :=
  memSet (memSet m (entryOffset a) (v.extractLsb' 0 8)) (entryOffset a + 1) (v.extractLsb' 8 8)

/-- The sequencer's read of one entry: an entry that holds no value is a fault (R233; log 7). -/
def cwRead (m : Memory) (a : Nat) : Except Stop Codeword :=
  match cwGet m a with
  | some v => .ok v
  | none => .error (.fault (.unwrittenCodeword a))

/-- `MemRead(a, n)` (R13). -/
def memRead (m : Memory) (a : Nat) : Nat → Except Stop (List Codeword)
  | 0 => .ok []
  | n + 1 => do
    let v ← cwRead m a
    let vs ← memRead m (a + 1) n
    .ok (v :: vs)

/-- `MemWrite(a, n, v)`, n the length of v (R13). -/
def memWrite (m : Memory) (a : Nat) : List Codeword → Memory
  | [] => m
  | v :: vs => memWrite (cwSet m a v) (a + 1) vs

/-- The entries `[a, a + n)` become unspecified: each takes the next free value (R232; I10; log 8). -/
def memScribble (m : Memory) (a draw : Nat) : Nat → Memory
  | 0 => m
  | n + 1 => memScribble (cwSet m a (Config.freeEntry draw)) (a + 1) (draw + 1) n

/-- A field element as it is stored in a codeword entry. -/
def toCodeword (x : Elem) : Codeword := x.setWidth 16

/-! ### Registers -/

/-- `RESULT <- v` (R26). -/
def State.setResult (s : State) (v : Word) : State := { s with result := v }

/-- `P[i] <- p; PV[i] <- 1` (R23). -/
def State.setPoly (s : State) (i : PReg) (p : PolyVal) : State := { s with polys := s.polys.set i.val (some p) i.isLt }

/-- `PV[0..7] <- 0` (R23). -/
def State.clearPolys (s : State) : State := { s with polys := Vector.replicate 8 none }

/-- `CACHE <- c`; CACHE_DEG follows (R35, R39). -/
def State.setCache (s : State) (c : List PolyVal) : State := { s with cache := c }

/-- The codeword buffer after a MemWrite. -/
def State.setCw (s : State) (m : Memory) : State := { s with cw := m }

/-- The active field's parameters and tables (R38). -/
def State.setField (s : State) (f : ActiveField) : State := { s with field := f }

/-- STATUS.FIELD_VALID (R38). -/
def State.setFieldValid (s : State) (b : Bool) : State := { s with fieldValid := b }

/-- The host-visible operand registers (R25, R27 to R29). -/
def State.setRegs (s : State) (r : OperandRegs) : State := { s with regs := r }

/-- CACHE_DEG (R35): bits [12:0] hold len(CACHE) - 1, the others read 0 (log 14). -/
def State.cacheDeg (s : State) : Word := (BitVec.ofNat 13 (s.cache.length - 1)).setWidth 32

/-- `n` free values have been consumed (log 24). -/
def State.advance (s : State) (n : Nat) : State := { s with draws := s.draws + n }

/-- The bus answers the host. -/
def State.respond (s : State) (r : Response) : State := { s with responses := r :: s.responses }

/-- The outside world's remaining events. -/
def State.setPending (s : State) (es : List Event) : State := { s with pending := es }

end Sys2Proof.Machine
end

