-- ==== Sys2Proof/Machine/Operands.lean ====
section
/-!
DEFINITION. Every operand form of spec/30_encoding.md R83 (u32, s32, elem), the source registers and FIELD_VALID check of the
preamble R89, and the codeword ranges the commands address.
-/

namespace Sys2Proof.Machine

/-- SIZE = 2^AM (R38). -/
def ActiveField.size (f : ActiveField) : Nat := 2 ^ f.am.toNat

/-- The operands of the command being executed: "the ARG snapshot of the command latch" (R82). With no command in the latch they are
what acceptance would snapshot now (log 13). -/
def State.operands (s : State) : OperandRegs :=
  match s.latch with
  | some l => l.args
  | none => s.regs

/-- The preamble's field check (R89). -/
def requireField (s : State) : Except Stop Unit := raiseIf (s.fieldValid = false) .noField

/-- A source polynomial register (R23, R89). -/
def sourcePoly (s : State) (i : PReg) : Except Stop PolyVal :=
  match s.polys[i] with
  | some p => .ok p
  | none => raise .uninit

/-- An "elem" operand: a u32 below SIZE, else E_RANGE (R83). -/
def elemOperand (f : ActiveField) (v : Word) : Except Stop Elem :=
  if v.toNat < f.size then .ok (v.setWidth 12) else raise .range

/-- Codewords read as field elements: each below SIZE, else E_RANGE (R40). -/
def elemList (f : ActiveField) (cs : List Codeword) : Except Stop (List Elem) :=
  if cs.all (fun c => decide (c.toNat < f.size)) = true then .ok (cs.map (fun c => c.setWidth 12)) else raise .range

/-- `signed32(v)` (R10, R83). -/
def signed32 (v : Word) : Int := v.toInt

/-- A field element as RESULT shows it: zero-extended (R26, R146). -/
def toWord (x : Elem) : Word := x.setWidth 32

/-- `a + n <= NMAX`, else E_CAPACITY (R62); the sum is exact (R11). -/
def requireRange (a n : Nat) : Except Stop Unit := raiseIf (Config.nmax < a + n) .capacity

/-- A range of codeword entries: its first address and its length. -/
structure Range where
  start : Nat
  count : Nat
  deriving DecidableEq, Repr

/-- What POLY_STORE writes: `[start, start + len(p))` (R141, R232). -/
def storeRange (s : State) (p : PolyVal) : Range := { start := s.operands.arg0.toNat, count := p.length }

/-- The data words RS_ENCODE reads: `[start, start + n)`, n = L - ec (R173). -/
def encodeDataRange (s : State) : Range :=
  { start := s.operands.arg0.toNat, count := s.operands.arg1.toNat - s.operands.arg2.toNat }

/-- What RS_ENCODE writes: `[start + n, start + L)`, n = L - ec (R173, R232). When the command succeeds these are ec words; the
bounds are exact (R11), so with L < ec the range begins before `start`, at entry 0 at the lowest. -/
def encodeRange (s : State) : Range :=
  { start := s.operands.arg0.toNat + s.operands.arg1.toNat - s.operands.arg2.toNat
    count := min s.operands.arg2.toNat (s.operands.arg0.toNat + s.operands.arg1.toNat) }

/-- What RS_SYND writes: `[dst, dst + ns)` (R175, R232). -/
def syndromeRange (s : State) : Range :=
  { start := s.operands.arg3.toNat, count := s.operands.arg2.toNat }

/-- A command's write range (R232): POLY_STORE, RS_ENCODE and RS_SYND write CW, no other (R40). A POLY_STORE of a register that holds
no value has none. -/
def writeRange (i : Instr) (s : State) : Range :=
  match i with
  | .polyStore rs1 => storeRange s (s.polys[rs1].getD [])
  | .rsEncode => encodeRange s
  | .rsSynd => syndromeRange s
  | .gfCfg | .gfAdd | .gfMul | .gfDiv | .gfInv | .gfExp | .gfLog => { start := 0, count := 0 }
  | .polyLoad _ | .polyAdd _ _ _ | .polyMul _ _ _ | .polyMulmono _ _ | .polyDiv _ _ _ _ => { start := 0, count := 0 }
  | .polyCoef _ | .polyDeg _ | .polyIszero _ | .polyEval _ | .rsGen _ => { start := 0, count := 0 }

/-- The entries of a range that the buffer has: CW[0 .. NMAX-1] (R40). -/
def Range.inBuffer (r : Range) : Range := { start := r.start, count := min (r.start + r.count) Config.nmax - r.start }

end Sys2Proof.Machine
end

