-- ==== Sys2Proof/Machine/Gf.lean ====
section
/-!
DEFINITION. The Galois-field unit (spec/40_gf.md): table construction, the field primitives R102 to R106 and the GF commands.
-/

namespace Sys2Proof.Machine

/-! ### Tables and primitives -/

/-- One step of the table loop of R101: `x << 1`, then `xor poly` when the result is not below `size = 2^m`. -/
def xtime (m : Nat) (poly : BitVec 13) (x : Elem) : Elem :=
  let y : BitVec 13 := x.setWidth 13 <<< 1
  (if 2 ^ m ≤ y.toNat then y ^^^ poly else y).setWidth 12

/-- The first `n` values T[0], T[1], ... of the table loop that stands at `x` (R101). -/
def powersFrom (m : Nat) (poly : BitVec 13) : Nat → Elem → List Elem
  | 0, _ => []
  | n + 1, x => x :: powersFrom m poly n (xtime m poly x)

/-- The table T[0 .. size-1] of R101, "starting value 1, repeatedly doubling". -/
def powerTable (m : Nat) (poly : BitVec 13) : List Elem := powersFrom m poly (2 ^ m) 1

/-- The full-cycle check of R101: T[0..size-2] are pairwise distinct and nonzero, and T[size-1] = 1. -/
def fullCycle (m : Nat) (poly : BitVec 13) : Bool :=
  let t := powerTable m poly
  let cycle := t.take (2 ^ m - 1)
  decide cycle.Nodup && !cycle.contains 0 && (t[2 ^ m - 1]? == some 1)

/-- Whether GF_CFG accepts the parameters: 1 <= m <= M_MAX, poly of degree exactly m, and a full cycle (R101). -/
def fieldOk (m : BitVec 4) (poly : BitVec 13) : Bool :=
  decide (1 ≤ m.toNat) && decide (m.toNat ≤ Config.mMax) && decide (2 ^ m.toNat ≤ poly.toNat)
    && decide (poly.toNat < 2 * 2 ^ m.toNat) && fullCycle m.toNat poly

/-- LOG[1 .. size-1]: `LOG[T[i]] <- i` for i in 0 .. size-2, so LOG[x] is the place of x in T (R37, R101). -/
def logTable (m : Nat) (t : List Elem) : List Elem :=
  (List.range (2 ^ m - 1)).map (fun k => BitVec.ofNat 12 (t.idxOf (BitVec.ofNat 12 (k + 1))))

/-- The active field a successful GF_CFG leaves (R101, R38). -/
def buildField (m : BitVec 4) (poly : BitVec 13) (base : BitVec 12) : ActiveField :=
  { am := m, apoly := poly, abase := base
    expTab := powerTable m.toNat poly
    logTab := logTable m.toNat (powerTable m.toNat poly) }

/-- EXP[i]; an unspecified entry is a free value (R36; log 10). -/
def expEntry (f : ActiveField) (i : Nat) : Elem := f.expTab[i]?.getD (Config.freeExp i)

/-- LOG[x]; an unspecified entry, LOG[0] among them, is a free value (R37; log 10, 11). -/
def logEntry (f : ActiveField) (x : Elem) : Elem :=
  if x = 0 then Config.freeLog 0 else f.logTab[x.toNat - 1]?.getD (Config.freeLog x.toNat)

/-- `gf_exp(i) = EXP[i mod (SIZE - 1)]` (R102). -/
def gfExp (f : ActiveField) (i : Nat) : Elem := expEntry f (i % (f.size - 1))

/-- `gf_log(x) = LOG[x]` for x != 0 (R103); the caller has raised E_GF_ZERO for 0. -/
def gfLog (f : ActiveField) (x : Elem) : Elem := logEntry f x

/-- `gf_mul(a, b)` (R104): 0 if either is 0, else `gf_exp(LOG[a] + LOG[b])`, the sum exact. -/
def gfMul (f : ActiveField) (a b : Elem) : Elem :=
  if a = 0 ∨ b = 0 then 0 else gfExp f ((gfLog f a).toNat + (gfLog f b).toNat)

/-- `gf_inv(x) = gf_exp(SIZE - 1 - LOG[x])` for x != 0 (R105); the caller has raised E_GF_ZERO for 0. -/
def gfInv (f : ActiveField) (x : Elem) : Elem := gfExp f (f.size - 1 - (gfLog f x).toNat)

/-- `gf_div(a, b) = gf_mul(a, gf_inv(b))` for b != 0 (R106); the caller has raised E_GF_ZERO for 0. -/
def gfDiv (f : ActiveField) (a b : Elem) : Elem := gfMul f a (gfInv f b)

/-! ### Commands -/

/-- What every GF_CFG outcome discards: "PV[0..7] <- 0; CACHE <- [[1]]; CACHE_DEG <- 0" (R101). -/
def State.discardField (s : State) : State := s.clearPolys.setCache cacheSeed

/-- A field whose tables are unspecified (R101, on failure); AM, APOLY and ABASE are not written (log 10, 27). -/
def ActiveField.forgetTables (f : ActiveField) : ActiveField := { f with expTab := [], logTab := [] }

/-- GF_CFG (R101). E_FIELD_INVALID is the one error that changes state besides STATUS (R201). -/
def execGfCfg (s : State) : Host.Outcome State Fault Refusal :=
  let a := s.operands
  if fieldOk a.fieldM a.fieldPoly then
    finish s (.ok ((s.discardField.setField (buildField a.fieldM a.fieldPoly a.fieldBase)).setFieldValid true))
  else
    finish ((s.discardField.setField s.field.forgetTables).setFieldValid false) (raise .fieldInvalid)

/-- GF_ADD (R107). -/
def execGfAdd (s : State) : Host.Outcome State Fault Refusal :=
  finish s do
    requireField s
    let a ← elemOperand s.field s.operands.arg0
    let b ← elemOperand s.field s.operands.arg1
    .ok (s.setResult (toWord (a ^^^ b)))

/-- GF_MUL (R108). -/
def execGfMul (s : State) : Host.Outcome State Fault Refusal :=
  finish s do
    requireField s
    let a ← elemOperand s.field s.operands.arg0
    let b ← elemOperand s.field s.operands.arg1
    .ok (s.setResult (toWord (gfMul s.field a b)))

/-- GF_DIV (R109): the range of both operands is checked before the divisor's zero. -/
def execGfDiv (s : State) : Host.Outcome State Fault Refusal :=
  finish s do
    requireField s
    let a ← elemOperand s.field s.operands.arg0
    let b ← elemOperand s.field s.operands.arg1
    raiseIf (b = 0) .gfZero
    .ok (s.setResult (toWord (gfDiv s.field a b)))

/-- GF_INV (R110). -/
def execGfInv (s : State) : Host.Outcome State Fault Refusal :=
  finish s do
    requireField s
    let x ← elemOperand s.field s.operands.arg0
    raiseIf (x = 0) .gfZero
    .ok (s.setResult (toWord (gfInv s.field x)))

/-- GF_EXP (R111): the exponent is the whole unsigned 32-bit ARG0. -/
def execGfExp (s : State) : Host.Outcome State Fault Refusal :=
  finish s do
    requireField s
    .ok (s.setResult (toWord (gfExp s.field s.operands.arg0.toNat)))

/-- GF_LOG (R112). -/
def execGfLog (s : State) : Host.Outcome State Fault Refusal :=
  finish s do
    requireField s
    let x ← elemOperand s.field s.operands.arg0
    raiseIf (x = 0) .gfZero
    .ok (s.setResult (toWord (gfLog s.field x)))

end Sys2Proof.Machine
end

