-- ==== Sys2Proof/Machine/Poly.lean ====
section
/-!
DEFINITION. The polynomial unit (spec/41_poly.md): the primitives R130 to R138 on coefficient lists, highest degree first, and the
POLY commands.
-/

namespace Sys2Proof.Machine

/-! ### Primitives -/

/-- `zeros(n)` (R12). -/
def zeros (n : Nat) : PolyVal := List.replicate n 0

/-- `normalize(c)` (R130): leading zeros are stripped, but a last coefficient stays. The caller has raised E_EMPTY for `[]`
(log 28). -/
def normalizePoly : PolyVal → PolyVal
  | [] => []
  | [c] => [c]
  | c :: d :: rest => if c = 0 then normalizePoly (d :: rest) else c :: d :: rest

/-- `deg(p) = len(p) - 1` (R131). -/
def deg (p : PolyVal) : Nat := p.length - 1

/-- `is_zero(p)` iff p = [0] (R132). -/
def isZero (p : PolyVal) : Bool := p == [0]

/-- `coef(p, d)` (R133): `p[len(p) - 1 - d]` when 0 <= d <= deg(p), and 0 otherwise. -/
def coef (p : PolyVal) (d : Int) : Elem :=
  if 0 ≤ d ∧ d ≤ deg p then p[p.length - 1 - d.toNat]?.getD 0 else 0

/-- Element-wise xor of lists of one length. -/
def xorLists (a b : PolyVal) : PolyVal := List.zipWith (· ^^^ ·) a b

/-- `poly_add(a, b)` (R134): the shorter list is padded with leading zeros. -/
def polyAdd (a b : PolyVal) : PolyVal :=
  let n := max a.length b.length
  normalizePoly (xorLists (zeros (n - a.length) ++ a) (zeros (n - b.length) ++ b))

/-- `poly_mulmono(p, d, c)` (R135). For the zero polynomial "the list is all zeros, and normalize returns [0]" (conflict C3): said at
once, so that no list of d zeros is built. -/
def polyMulmono (f : ActiveField) (p : PolyVal) (d : Nat) (c : Elem) : PolyVal :=
  if c = 0 ∨ isZero p then [0] else normalizePoly (p.map (fun x => gfMul f x c) ++ zeros d)

/-- The accumulation `r[i+j] = r[i+j] xor gf_mul(a[i], b[j])` of R136, over `zeros(len(a) + len(b) - 1)`: the first coefficient
of `a` adds its products at the front, the others add theirs one place later. -/
def convolve (f : ActiveField) : PolyVal → PolyVal → PolyVal
  | [], b => zeros (b.length - 1)
  | x :: rest, b => xorLists (b.map (fun y => gfMul f x y) ++ zeros rest.length) (0 :: convolve f rest b)

/-- `poly_mul(a, b)` (R136). -/
def polyMul (f : ActiveField) (a b : PolyVal) : PolyVal :=
  if isZero a || isZero b then [0] else normalizePoly (convolve f a b)

/-- The loop of R137 from quotient `q` and remainder `r`, for at most the given number of iterations. `lead` is b[0]. -/
def divLoop (f : ActiveField) (b : PolyVal) (lead : Elem) : Nat → PolyVal → PolyVal → PolyVal × PolyVal
  | 0, q, r => (q, r)
  | n + 1, q, r =>
    if deg b ≤ deg r ∧ isZero r = false then
      let dd := deg r - deg b
      let scale := gfMul f (r.headD 0) (gfInv f lead)
      divLoop f b lead n (polyAdd q (normalizePoly (scale :: zeros dd))) (polyAdd r (polyMulmono f b dd scale))
    else (q, r)

/-- `poly_divmod(a, b)` (R137), for a nonzero b: "the loop runs at most deg(a) - deg(b) + 1 times" (log 20). -/
def polyDivmod (f : ActiveField) (a b : PolyVal) : PolyVal × PolyVal :=
  divLoop f b (b.headD 0) (deg a - deg b + 1) [0] a

/-- `poly_eval(c, x)` by Horner's rule (R138). -/
def polyEval (f : ActiveField) (c : PolyVal) (x : Elem) : Elem :=
  c.foldl (fun acc k => gfMul f acc x ^^^ k) 0

/-! ### Commands -/

/-- POLY_LOAD (R140). -/
def execPolyLoad (rd : PReg) (s : State) : Host.Outcome State Fault Refusal :=
  finish s do
    requireField s
    let start := s.operands.arg0.toNat
    let n := s.operands.arg1.toNat
    raiseIf (n = 0) .empty
    requireRange start n
    let words ← memRead s.cw start n
    let c ← elemList s.field words
    .ok (s.setPoly rd (normalizePoly c))

/-- POLY_STORE (R141). -/
def execPolyStore (rs1 : PReg) (s : State) : Host.Outcome State Fault Refusal :=
  finish s do
    requireField s
    let p ← sourcePoly s rs1
    let range := storeRange s p
    requireRange range.start range.count
    .ok ((s.setCw (memWrite s.cw range.start (p.map toCodeword))).setResult (BitVec.ofNat 32 p.length))

/-- POLY_ADD (R142). -/
def execPolyAdd (rd rs1 rs2 : PReg) (s : State) : Host.Outcome State Fault Refusal :=
  finish s do
    requireField s
    let a ← sourcePoly s rs1
    let b ← sourcePoly s rs2
    .ok (s.setPoly rd (polyAdd a b))

/-- POLY_MUL (R143). -/
def execPolyMul (rd rs1 rs2 : PReg) (s : State) : Host.Outcome State Fault Refusal :=
  finish s do
    requireField s
    let a ← sourcePoly s rs1
    let b ← sourcePoly s rs2
    let r := polyMul s.field a b
    raiseIf (Config.nmax < r.length) .capacity
    .ok (s.setPoly rd r)

/-- POLY_MULMONO (R144). -/
def execPolyMulmono (rd rs1 : PReg) (s : State) : Host.Outcome State Fault Refusal :=
  finish s do
    requireField s
    let p ← sourcePoly s rs1
    let d := s.operands.arg0.toNat
    let c ← elemOperand s.field s.operands.arg1
    raiseIf (c ≠ 0 ∧ isZero p = false ∧ Config.nmax < p.length + d) .capacity
    .ok (s.setPoly rd (polyMulmono s.field p d c))

/-- POLY_DIV (R145). RD = RE is the decoder's E_ILLEGAL (R86, R89); the meaning says the same of a term that names one register
twice (log 16). The quotient and the remainder are computed before either is written (R76). -/
def execPolyDiv (rd re rs1 rs2 : PReg) (s : State) : Host.Outcome State Fault Refusal :=
  finish s do
    raiseIf (rd = re) .illegal
    requireField s
    let a ← sourcePoly s rs1
    let b ← sourcePoly s rs2
    raiseIf (isZero b = true) .polyDivZero
    let qr := polyDivmod s.field a b
    .ok ((s.setPoly rd qr.1).setPoly re qr.2)

/-- POLY_COEF (R146): the degree is signed. -/
def execPolyCoef (rs1 : PReg) (s : State) : Host.Outcome State Fault Refusal :=
  finish s do
    requireField s
    let p ← sourcePoly s rs1
    .ok (s.setResult (toWord (coef p (signed32 s.operands.arg0))))

/-- POLY_DEG (R147). -/
def execPolyDeg (rs1 : PReg) (s : State) : Host.Outcome State Fault Refusal :=
  finish s do
    requireField s
    let p ← sourcePoly s rs1
    .ok (s.setResult (BitVec.ofNat 32 (deg p)))

/-- POLY_ISZERO (R148). -/
def execPolyIszero (rs1 : PReg) (s : State) : Host.Outcome State Fault Refusal :=
  finish s do
    requireField s
    let p ← sourcePoly s rs1
    .ok (s.setResult (if isZero p then 1 else 0))

/-- POLY_EVAL (R149). -/
def execPolyEval (rs1 : PReg) (s : State) : Host.Outcome State Fault Refusal :=
  finish s do
    requireField s
    let p ← sourcePoly s rs1
    let x ← elemOperand s.field s.operands.arg0
    .ok (s.setResult (toWord (polyEval s.field p x)))

end Sys2Proof.Machine
end

