-- ==== Sys2Proof/Machine/Rs.lean ====
section
/-!
DEFINITION. The Reed-Solomon unit and the syndrome calculator (spec/42_rs.md): the generator cache R171 and the RS commands.
-/

namespace Sys2Proof.Machine

/-! ### Generators and syndromes -/

/-- The factor `[1, gf_exp(k - 1 + BASE)]` that takes g_(k-1) to g_k (R170): the exponent sum is exact. -/
def generatorFactor (f : ActiveField) (k : Nat) : PolyVal := [1, gfExp f (k - 1 + f.abase.toNat)]

/-- The loop of R171, run `n` times: the new degree is k = len(CACHE). -/
def extendCache (f : ActiveField) : Nat → List PolyVal → List PolyVal
  | 0, cache => cache
  | n + 1, cache =>
    extendCache f n (cache ++ [polyMul f (cache[cache.length - 1]?.getD []) (generatorFactor f cache.length)])

/-- CACHE after `build_generator(d)` (R171): extended "while len(CACHE) <= d", unchanged when d is already cached. -/
def cacheFor (f : ActiveField) (c : List PolyVal) (d : Nat) : List PolyVal := extendCache f (d + 1 - c.length) c

/-- The value `build_generator(d)` returns: CACHE[d] of the extended cache (R171; log 28). -/
def buildGenerator (f : ActiveField) (c : List PolyVal) (d : Nat) : PolyVal := (cacheFor f c d)[d]?.getD []

/-- The EC words of R173: the remainder of the shifted data by g, left-padded with zeros to ec coefficients. -/
def ecWords (f : ActiveField) (data g : PolyVal) (ec : Nat) : PolyVal :=
  let sh := polyMulmono f (normalizePoly data) ec 1
  let r := (polyDivmod f sh g).2
  zeros (ec - r.length) ++ r

/-- The syndromes S_0 .. S_(ns-1) of a received word (R174). -/
def syndromes (f : ActiveField) (w : PolyVal) (ns : Nat) : PolyVal :=
  (List.range ns).map (fun j => polyEval f w (gfExp f (j + f.abase.toNat)))

/-! ### Commands -/

/-- RS_GEN (R172). -/
def execRsGen (rd : PReg) (s : State) : Host.Outcome State Fault Refusal :=
  finish s do
    requireField s
    let d := s.operands.arg0.toNat
    raiseIf (Config.nmax - 1 < d) .capacity
    .ok ((s.setCache (cacheFor s.field s.cache d)).setPoly rd (buildGenerator s.field s.cache d))

/-- RS_ENCODE (R173). Only the data words are read: "the old contents of the EC positions are never read". -/
def execRsEncode (s : State) : Host.Outcome State Fault Refusal :=
  finish s do
    requireField s
    let start := s.operands.arg0.toNat
    let total := s.operands.arg1.toNat
    let ec := s.operands.arg2.toNat
    raiseIf (ec = 0) .zeroEc
    raiseIf (total ≤ ec) .insufficientData
    requireRange start total
    let words ← memRead s.cw (encodeDataRange s).start (encodeDataRange s).count
    let data ← elemList s.field words
    let ecw := ecWords s.field data (buildGenerator s.field s.cache ec) ec
    .ok ((s.setCache (cacheFor s.field s.cache ec)).setCw (memWrite s.cw (encodeRange s).start (ecw.map toCodeword)))

/-- RS_SYND (R175): "all computed before any write". -/
def execRsSynd (s : State) : Host.Outcome State Fault Refusal :=
  finish s do
    requireField s
    let src := s.operands.arg0.toNat
    let total := s.operands.arg1.toNat
    let ns := s.operands.arg2.toNat
    raiseIf (ns = 0) .zeroEc
    raiseIf (total = 0) .empty
    requireRange src total
    requireRange (syndromeRange s).start (syndromeRange s).count
    let words ← memRead s.cw src total
    let w ← elemList s.field words
    let synd := syndromes s.field w ns
    .ok ((s.setCw (memWrite s.cw (syndromeRange s).start (synd.map toCodeword))).setResult
      (if synd.any (fun x => x != 0) then 1 else 0))

end Sys2Proof.Machine
end

