-- ==== Sys2Proof/Machine/Dispatch.lean ====
section
/-!
DEFINITION. The meaning of every command: `exec i s` runs the command `i` on the state `s` to its completion (spec/60_exceptions.md
R208: "execute latch.cmd against the state and latch.args; atomic"). One arm per constructor of Instr, each one call.
-/

namespace Sys2Proof.Machine

def exec (i : Instr) (s : State) : Host.Outcome State Fault Refusal :=
  match i with
  | .gfCfg => Sys2Proof.Machine.execGfCfg s
  | .gfAdd => Sys2Proof.Machine.execGfAdd s
  | .gfMul => Sys2Proof.Machine.execGfMul s
  | .gfDiv => Sys2Proof.Machine.execGfDiv s
  | .gfInv => Sys2Proof.Machine.execGfInv s
  | .gfExp => Sys2Proof.Machine.execGfExp s
  | .gfLog => Sys2Proof.Machine.execGfLog s
  | .polyLoad rd => Sys2Proof.Machine.execPolyLoad rd s
  | .polyStore rs1 => Sys2Proof.Machine.execPolyStore rs1 s
  | .polyAdd rd rs1 rs2 => Sys2Proof.Machine.execPolyAdd rd rs1 rs2 s
  | .polyMul rd rs1 rs2 => Sys2Proof.Machine.execPolyMul rd rs1 rs2 s
  | .polyMulmono rd rs1 => Sys2Proof.Machine.execPolyMulmono rd rs1 s
  | .polyDiv rd re rs1 rs2 => Sys2Proof.Machine.execPolyDiv rd re rs1 rs2 s
  | .polyCoef rs1 => Sys2Proof.Machine.execPolyCoef rs1 s
  | .polyDeg rs1 => Sys2Proof.Machine.execPolyDeg rs1 s
  | .polyIszero rs1 => Sys2Proof.Machine.execPolyIszero rs1 s
  | .polyEval rs1 => Sys2Proof.Machine.execPolyEval rs1 s
  | .rsGen rd => Sys2Proof.Machine.execRsGen rd s
  | .rsEncode => Sys2Proof.Machine.execRsEncode s
  | .rsSynd => Sys2Proof.Machine.execRsSynd s

end Sys2Proof.Machine
end

