-- ==== Sys2Proof/Machine/Window.lean ====
section
/-!
DEFINITION. The host's side: the register map (spec/10_state.md R43), reads and writes of the window idle and busy (R25 to R35, R42,
spec/20_memory.md R61 to R67), acceptance (spec/60_exceptions.md R208), soft and power-on reset (spec/70_reset_and_hazards.md
R230 to R232).
-/

namespace Sys2Proof.Machine

/-- What stands at a 4-byte-aligned offset of the window (R43). -/
inductive Location where
  | id | caps | ctrl | status | cmd | result | cacheDeg
  | fieldM | fieldPoly | fieldBase
  | arg0 | arg1 | arg2 | arg3
  | reserved
  | codeword (a : Nat)
  deriving DecidableEq, Repr

/-- The register map of R43. -/
def locate (offset : Nat) : Location :=
  if Config.cwBase ≤ offset then .codeword ((offset - Config.cwBase) / 4)
  else if offset = 0x000 then .id
  else if offset = 0x004 then .caps
  else if offset = 0x008 then .ctrl
  else if offset = 0x00C then .status
  else if offset = 0x010 then .cmd
  else if offset = 0x014 then .result
  else if offset = 0x018 then .cacheDeg
  else if offset = 0x020 then .fieldM
  else if offset = 0x024 then .fieldPoly
  else if offset = 0x028 then .fieldBase
  else if offset = 0x030 then .arg0
  else if offset = 0x034 then .arg1
  else if offset = 0x038 then .arg2
  else if offset = 0x03C then .arg3
  else .reserved

/-- ID (R31): "RS" and the variant 7. -/
def idWord : Word := 0x52530007

/-- CAPS (R32): NMAX in [31:16], NP in [7:4], M_MAX in [3:0]. -/
def capsWord : Word := BitVec.ofNat 16 Config.nmax ++ 0#8 ++ BitVec.ofNat 4 Config.np ++ BitVec.ofNat 4 Config.mMax

/-! ### Reads -/

/-- A read while idle (R25 to R35, R62, R67): the datum, or the fault of an unwritten codeword (R233). -/
def idleRead (s : State) (loc : Location) : Except Fault Word :=
  match loc with
  | .id => .ok idWord
  | .caps => .ok capsWord
  | .ctrl => .ok 0
  | .status => .ok s.statusWord
  | .cmd => .ok 0
  | .result => .ok s.result
  | .cacheDeg => .ok s.cacheDeg
  | .fieldM => .ok (s.regs.fieldM.setWidth 32)
  | .fieldPoly => .ok (s.regs.fieldPoly.setWidth 32)
  | .fieldBase => .ok (s.regs.fieldBase.setWidth 32)
  | .arg0 => .ok s.regs.arg0
  | .arg1 => .ok s.regs.arg1
  | .arg2 => .ok s.regs.arg2
  | .arg3 => .ok s.regs.arg3
  | .reserved => .ok 0
  | .codeword a =>
    match cwGet s.cw a with
    | some v => .ok (v.setWidth 32)
    | none => .error (.unwrittenCodeword a)

/-- A read while busy (R42): the datum, or `none` where it is unspecified. -/
def busyRead (s : State) (loc : Location) : Option Word :=
  match loc with
  | .id => some idWord
  | .caps => some capsWord
  | .ctrl => some 0
  | .status => some s.statusWord
  | .cmd => some 0
  | .reserved => some 0
  | .result | .cacheDeg | .fieldM | .fieldPoly | .fieldBase | .arg0 | .arg1 | .arg2 | .arg3 | .codeword _ => none

/-- A legal read. An unspecified datum is the next free value (R42; log 5). No read has a side effect (R65). -/
def busRead (s : State) (loc : Location) : Host.Outcome State Fault Refusal :=
  if s.busy then
    match busyRead s loc with
    | some v => .next (s.respond (.data v))
    | none => .next ((s.respond (.data (Config.freeWord s.draws))).advance 1)
  else
    match idleRead s loc with
    | .ok v => .next (s.respond (.data v))
    | .error f => .fault f

/-! ### Reset -/

/-- The state a reset leaves, over a given codeword buffer: every piece takes its reset value (R231). The model's own fields go on
(log 21, 24). -/
def State.resetWith (s : State) (m : Memory) : State :=
  { State.reset with cw := m, pending := s.pending, responses := s.responses, draws := s.draws }

/-- The codeword entries an abort leaves unspecified: every entry of the write range of the command in the latch (R232), whether or
not that command would have failed; an illegal word writes nothing (R87; log 8). -/
def abortRange (s : State) : Range :=
  match s.latch with
  | none => { start := 0, count := 0 }
  | some l =>
    match decode l.word with
    | .error _ => { start := 0, count := 0 }
    | .ok i => (writeRange i s).inBuffer

/-- Soft reset (R231, R232): a running command is aborted, CW keeps its values outside the aborted command's write range. -/
def State.softReset (s : State) : State :=
  let r := abortRange s
  (s.resetWith (memScribble s.cw r.start s.draws r.count)).advance r.count

/-- Power-on reset (R230, R231, R233): as the soft reset, and no codeword holds a value. -/
def State.powerOn (s : State) : State := s.resetWith []

/-! ### Writes -/

/-- A write to CTRL, at any time (R33): SOFT_RESET, which clears OVERRUN too, then CLR_OVR. -/
def ctrlWrite (s : State) (v : Word) : State :=
  if v.getLsbD 0 then s.softReset
  else if v.getLsbD 1 then s.clearOverrun
  else s

/-- A write while idle (R25, R27 to R30, R62, R67): read-only and reserved offsets ignore it. -/
def idleWrite (s : State) (loc : Location) (v : Word) : State :=
  match loc with
  | .ctrl => ctrlWrite s v
  | .cmd => s.accept v
  | .fieldM => s.setRegs { s.regs with fieldM := v.setWidth 4 }
  | .fieldPoly => s.setRegs { s.regs with fieldPoly := v.setWidth 13 }
  | .fieldBase => s.setRegs { s.regs with fieldBase := v.setWidth 12 }
  | .arg0 => s.setRegs { s.regs with arg0 := v }
  | .arg1 => s.setRegs { s.regs with arg1 := v }
  | .arg2 => s.setRegs { s.regs with arg2 := v }
  | .arg3 => s.setRegs { s.regs with arg3 := v }
  | .codeword a => s.setCw (cwSet s.cw a (v.setWidth 16))
  | .id | .caps | .status | .result | .cacheDeg | .reserved => s

/-- A write while busy (R42): dropped, and OVERRUN is set, except to CTRL. -/
def busyWrite (s : State) (loc : Location) (v : Word) : State :=
  match loc with
  | .ctrl => ctrlWrite s v
  | .cmd | .fieldM | .fieldPoly | .fieldBase | .arg0 | .arg1 | .arg2 | .arg3 | .codeword _
  | .id | .caps | .status | .result | .cacheDeg | .reserved => s.setOverrun

/-- A legal write. -/
def busWrite (s : State) (loc : Location) (v : Word) : State :=
  (if s.busy then busyWrite s loc v else idleWrite s loc v).respond .done

/-! ### Accesses -/

/-- Only 32-bit accesses at an address that is a multiple of 4 are legal (R61). The test is on the offset: that BASE_ADDR is a multiple
of 4 is the model's choice, DEDUCED and unsafe (log 29). -/
def legalAccess (w : Width) (offset : Nat) : Bool := w == .word && offset % 4 == 0

/-- One host access (R60, R61): outside the window it is not the block's (log 17); an illegal one gets a bus error and has no effect
on any state of the block, its read datum being the next free value (log 6). -/
def busAccess (s : State) (a : Access) : Host.Outcome State Fault Refusal :=
  match a with
  | .read w offset =>
    if Config.windowBytes ≤ offset then .fault (.outsideWindow offset)
    else if legalAccess w offset then busRead s (locate offset)
    else .next ((s.respond (.readError (Config.freeWord s.draws))).advance 1)
  | .write w offset v =>
    if Config.windowBytes ≤ offset then .fault (.outsideWindow offset)
    else if legalAccess w offset then .next (busWrite s (locate offset) v)
    else .next (s.respond .writeError)

end Sys2Proof.Machine
end

