-- ==== Sys2Proof/Machine/Agents.lean ====
section
/-!
DEFINITION. The two agents and who moves next (spec/00_scope.md R18, spec/20_memory.md R69, spec/60_exceptions.md R207, R208).
-/

namespace Sys2Proof.Machine

/-- Whose turn a step is: the host, of which there is one (R214; log 22), or the sequencer; no cycles are counted (log 23). -/
inductive Turn where
  /-- Nothing to do: "While BUSY = 0 it is idle, and all its state is retained" (R216). -/
  | idle
  /-- The sequencer executes the command in the latch (R208). -/
  | sequencer
  /-- The host's next event is performed (R69). -/
  | host
  /-- A command is running and an access arrives: which comes first "is not specified" (R207). -/
  | contended
  deriving DecidableEq, Repr

/-- Whose turn it is. A host that polls (`wait`) lets the running command complete: polls have no side effect and every accepted
command completes (R65, R239; log 4). -/
def State.turn (s : State) : Turn :=
  match s.latch, s.pending with
  | none, [] => .idle
  | none, _ :: _ => .host
  | some _, [] => .sequencer
  | some _, .wait :: _ => .sequencer
  | some _, .access _ :: _ => .contended
  | some _, .powerOnReset :: _ => .contended

/-- The sequencer's step (R208): the latched word is decoded and executed in one transition (R66); an illegal word completes with
E_ILLEGAL and "changes no other state" (R87). -/
def sequencerStep (s : State) : Host.Outcome State Fault Refusal :=
  match s.latch with
  | none => .next s
  | some l =>
    match decode l.word with
    | .ok i => exec i s
    | .error _ => .next (s.fail .illegal)

/-- One event of the outside world, already taken off the list. A completed `wait` is the STATUS read that returned BUSY = 0. -/
def performEvent (s : State) (e : Event) : Host.Outcome State Fault Refusal :=
  match e with
  | .access a => busAccess s a
  | .wait => .next (s.respond (.data s.statusWord))
  | .powerOnReset => .next s.powerOn

/-- The host's step: its next event. -/
def hostStep (s : State) : Host.Outcome State Fault Refusal :=
  match s.pending with
  | [] => .next s
  | e :: es => performEvent (s.setPending es) e

/-- One step of the machine. A contended step takes its order from the next free value (R207; log 3). -/
def agentStep (s : State) : Host.Outcome State Fault Refusal :=
  match s.turn with
  | .idle => .next s
  | .sequencer => sequencerStep s
  | .host => hostStep s
  | .contended => if Config.hostFirst s.draws then hostStep (s.advance 1) else sequencerStep (s.advance 1)

/-- A command word accepted on an idle bus: the next step executes it (log 2). -/
def State.issued (s : State) (w : Word) : State := (s.setPending []).accept w

end Sys2Proof.Machine
end

