-- ==== Sys2Proof/Machine/Step.lean ====
section
/-!
DEFINITION. One step of the machine, and the placement of a command word where the next step executes it.
-/

namespace Sys2Proof.Machine

/-- One step. -/
def step (s : State) : Host.Outcome State Fault Refusal := agentStep s

/-- `s` with the command word of `nbits` bits `w` just accepted from a CMD write, and nothing else on the bus, so that the very next
step decodes and executes it. The block fetches no instructions (R21): this stands for the host's write (R208; log 2). -/
def State.withFetchWord (s : State) (nbits w : Nat) : State := s.issued (BitVec.ofNat 32 (w % 2 ^ nbits))

end Sys2Proof.Machine
end

