-- ==== Sys2Proof/Safety.lean ====
section
/-!
DEFINITION. The terms claims use: when a field, a polynomial and a state are good ones (the invariant every step keeps), what a
command may read, write and raise, and reference readings of the arithmetic that do not go through the tables.
-/

namespace Sys2Proof

/-! ### What a command names and may raise -/

/-- The source registers a command names, RS1 first (R24, R85). -/
def Instr.sources : Instr → List PReg
  | .polyStore rs1 | .polyMulmono _ rs1 | .polyCoef rs1 | .polyDeg rs1 | .polyIszero rs1 | .polyEval rs1 => [rs1]
  | .polyAdd _ rs1 rs2 | .polyMul _ rs1 rs2 | .polyDiv _ _ rs1 rs2 => [rs1, rs2]
  | .gfCfg | .gfAdd | .gfMul | .gfDiv | .gfInv | .gfExp | .gfLog => []
  | .polyLoad _ | .rsGen _ | .rsEncode | .rsSynd => []

/-- The codeword entries a command reads when every check before its MemRead passes (R140, R173, R175); the others read none (R40). -/
def Instr.readRange (i : Instr) (s : Machine.State) : Machine.Range :=
  match i with
  | .polyLoad _ => { start := s.operands.arg0.toNat, count := s.operands.arg1.toNat }
  | .rsEncode => Machine.encodeDataRange s
  | .rsSynd => { start := s.operands.arg0.toNat, count := s.operands.arg1.toNat }
  | .gfCfg | .gfAdd | .gfMul | .gfDiv | .gfInv | .gfExp | .gfLog => { start := 0, count := 0 }
  | .polyStore _ | .polyAdd _ _ _ | .polyMul _ _ _ | .polyMulmono _ _ | .polyDiv _ _ _ _ => { start := 0, count := 0 }
  | .polyCoef _ | .polyDeg _ | .polyIszero _ | .polyEval _ | .rsGen _ => { start := 0, count := 0 }

/-- The error codes a legal command can raise: the "raised by" column of R200, E_ILLEGAL apart. -/
def Instr.mayRaise : Instr → List Machine.ErrCode
  | .gfCfg => [.fieldInvalid]
  | .gfAdd | .gfMul => [.noField, .range]
  | .gfDiv | .gfInv | .gfLog => [.noField, .range, .gfZero]
  | .gfExp => [.noField]
  | .polyLoad _ => [.noField, .empty, .range, .capacity]
  | .polyStore _ => [.noField, .uninit, .capacity]
  | .polyAdd _ _ _ => [.noField, .uninit]
  | .polyMul _ _ _ => [.noField, .uninit, .capacity]
  | .polyMulmono _ _ => [.noField, .uninit, .range, .capacity]
  | .polyDiv _ _ _ _ => [.noField, .uninit, .polyDivZero]
  | .polyCoef _ | .polyDeg _ | .polyIszero _ => [.noField, .uninit]
  | .polyEval _ => [.noField, .uninit, .range]
  | .rsGen _ => [.noField, .capacity]
  | .rsEncode => [.noField, .zeroEc, .insufficientData, .range, .capacity]
  | .rsSynd => [.noField, .zeroEc, .empty, .range, .capacity]

end Sys2Proof

namespace Sys2Proof.Machine

/-! ### Good values -/

/-- A field that a successful GF_CFG leaves: parameters GF_CFG accepts, with the tables built from them (R36 to R38, R101). -/
abbrev ActiveField.Valid (f : ActiveField) : Prop :=
  fieldOk f.am f.apoly = true ∧ f = buildField f.am f.apoly f.abase

/-- A field element is an integer in [0, SIZE) (R100). -/
abbrev InField (f : ActiveField) (x : Elem) : Prop := x.toNat < f.size

/-- Normalized: "c[0] != 0, or c = [0]" (R22). -/
abbrev Normalized (p : PolyVal) : Prop := p ≠ [] ∧ (p = [0] ∨ p.head? ≠ some 0)

/-- What a valid polynomial register holds: between 1 and NMAX field elements, normalized (R22). -/
abbrev PolyOk (f : ActiveField) (p : PolyVal) : Prop :=
  Normalized p ∧ p.length ≤ Config.nmax ∧ ∀ c ∈ p, InField f c

/-- The generator polynomial g_d by its definition (R170), with no cache. -/
def generator (f : ActiveField) : Nat → PolyVal
  | 0 => [1]
  | d + 1 => polyMul f (generator f d) [1, gfExp f (d + f.abase.toNat)]

/-- The invariant of the machine. -/
structure State.Inv (s : State) : Prop where
  /-- The codeword buffer is in canonical form. -/
  cwSorted : Memory.wf s.cw = true
  /-- Only bytes of codeword entries are held: bits [15:0] of the entries CW[0 .. NMAX-1] (R62). -/
  cwInBuffer : ∀ c ∈ s.cw, Config.cwBase ≤ c.1 ∧ c.1 < Config.windowBytes ∧ c.1 % 4 < 2
  /-- With FIELD_VALID the tables are those of the parameters (R36 to R38). -/
  fieldBuilt : s.fieldValid = true → s.field.Valid
  /-- A valid polynomial register needs a field, and its value is a good one (R22, R23). -/
  polysOk : ∀ (i : PReg) (p : PolyVal), s.polys[i] = some p → s.fieldValid = true ∧ PolyOk s.field p
  /-- The cache holds between 1 and NMAX entries (R39). -/
  cacheSize : 1 ≤ s.cache.length ∧ s.cache.length ≤ Config.nmax
  /-- CACHE[d] = g_d (R39). -/
  cacheGenerators : s.fieldValid = true → ∀ d, d < s.cache.length → s.cache[d]? = some (generator s.field d)
  /-- Without a field the cache is its seed (R39). -/
  cacheSeeded : s.fieldValid = false → s.cache = [[1]]
  /-- ERR says whether ERRCODE is not NONE (R34, R200). -/
  errAgrees : s.err = true ↔ s.errCode ≠ .noError
  /-- Both were cleared at acceptance and stay so until completion (R203, R208). -/
  busyClear : s.busy = true → s.err = false

/-! ### What a command may store and change -/

/-- The window bytes that hold the entries of a range (R62, R63). -/
def StoredByte (r : Range) (x : Nat) : Prop :=
  ∃ a, r.start ≤ a ∧ a < r.start + r.count ∧ (x = entryOffset a ∨ x = entryOffset a + 1)

/-- Every byte of the codeword buffer reads the same. -/
def SameMemory (m m' : Memory) : Prop := ∀ x, memGet m' x = memGet m x

/-- Every byte outside the range reads the same. -/
def SameOutside (r : Range) (m m' : Memory) : Prop := ∀ x, ¬ StoredByte r x → memGet m' x = memGet m x

/-- What no command changes: the host's registers, OVERRUN and the model's own fields (R25, R42). -/
structure KeepsHostSide (s t : State) : Prop where
  regs : t.regs = s.regs
  overrun : t.overrun = s.overrun
  pending : t.pending = s.pending
  responses : t.responses = s.responses
  draws : t.draws = s.draws

/-! ### Reference readings of the arithmetic -/

/-- alpha^i: 1, doubled i times (R100, R101). -/
def alphaPow (m : BitVec 4) (poly : BitVec 13) (i : Nat) : Elem := (xtime m.toNat poly)^[i] 1

/-- The carry-less product of two elements (R113): the xor of `a << k` over the set bits k of b. -/
def clmul (a b : Elem) : BitVec 24 :=
  (List.range 12).foldl (fun acc k => if b.getLsbD k then acc ^^^ (a.setWidth 24 <<< k) else acc) 0

/-- Reduction modulo a polynomial of degree m (R113): from the top bit down to bit m, a set bit k is cleared by `poly << (k - m)`. -/
def reduceMod (m : Nat) (poly : BitVec 13) (y : BitVec 24) : Elem :=
  ((List.range (24 - m)).foldl
    (fun acc j => if acc.getLsbD (23 - j) then acc ^^^ (poly.setWidth 24 <<< (23 - j - m)) else acc) y).setWidth 12

/-- The carry-less product of a and b reduced modulo the field's polynomial (R113). -/
def clmulMod (f : ActiveField) (a b : Elem) : Elem := reduceMod f.am.toNat f.apoly (clmul a b)

/-- The field sum of a list. -/
def xorSum (l : List Elem) : Elem := l.foldl (· ^^^ ·) 0

/-- x^n in the field. -/
def gfPow (f : ActiveField) (x : Elem) : Nat → Elem
  | 0 => 1
  | n + 1 => gfMul f (gfPow f x n) x

/-- `sum_k p[k] x^(len(p)-1-k)` (R138). -/
def evalSum (f : ActiveField) (p : PolyVal) (x : Elem) : Elem :=
  xorSum ((List.range p.length).map (fun k => gfMul f (p[k]?.getD 0) (gfPow f x (p.length - 1 - k))))

/-- The codeword entries `[a, a + len(w))` hold the elements `w`, each below SIZE. -/
def HoldsElems (f : ActiveField) (m : Memory) (a : Nat) (w : PolyVal) : Prop :=
  ∀ k, k < w.length → cwGet m (a + k) = some (toCodeword (w[k]?.getD 0)) ∧ InField f (w[k]?.getD 0)

end Sys2Proof.Machine
end

