-- ==== Sys2Proof/Certificates/Slice0/Obligations.lean ====
section
/-!
DEFINITION. The statements of this model, for the provers. Each docstring names the rules of spec/ it rests on.
-/

open Sys2Proof Sys2Proof.Machine

/-! ### Encoding -/

/-- R81, R82, R90: the decoder gives back every legal command from its word, with every operand at every value. -/
def Obligations.DecodeEncodeAgree : Prop :=
  ∀ i : Instr, i.wellFormed = true → decode (encode i) = .ok i

/-- R86: each legal word is the word of exactly the command it decodes to. -/
def Obligations.LegalWordIsItsEncoding : Prop :=
  ∀ (w : Word) (i : Instr), decode w = .ok i → i.wellFormed = true ∧ encode i = w

/-- R86, R87: a word is illegal exactly when its OP is reserved, or a reserved bit or an unused register field is not 0, or it is
POLY_DIV with RD = RE. -/
def Obligations.IllegalWordsBreakTheFormat : Prop :=
  ∀ w : Word, (∃ e, decode w = .error e) ↔
    ((∀ o : Opcode, o.code ≠ fieldOp w) ∨
     (∃ o : Opcode, o.code = fieldOp w ∧
       ((∃ k ∈ [11, 15, 19, 23, 24, 25, 26, 27, 28, 29, 30, 31], w.getLsbD k = true) ∨
        (o.usedMask &&& maskRd = 0 ∧ fieldRd w ≠ 0) ∨
        (o.usedMask &&& maskRe = 0 ∧ fieldRe w ≠ 0) ∨
        (o.usedMask &&& maskRs1 = 0 ∧ fieldRs1 w ≠ 0) ∨
        (o.usedMask &&& maskRs2 = 0 ∧ fieldRs2 w ≠ 0) ∨
        (o = .polyDiv ∧ fieldRd w = fieldRe w))))

/-- R93: the worked encoding examples. -/
def Obligations.WorkedEncodingsDecode : Prop :=
  decode 0x00135425 = .ok (.polyDiv 4 5 3 1) ∧ decode 0x00230322 = .ok (.polyAdd 3 3 2) ∧
  decode 0x00000730 = .ok (.rsGen 7) ∧ decode 0x00000822 = .error .reservedBits ∧
  decode 0x00001125 = .error .sameDestination ∧ decode 0x00000000 = .error .reservedOpcode ∧
  encode (.polyDiv 4 5 3 1) = 0x00135425 ∧ encode (.polyAdd 3 3 2) = 0x00230322 ∧ encode (.rsGen 7) = 0x00000730

/-! ### The step and the lifecycle of a command -/

/-- R208: the sequencer executes the latched command. With nothing on the bus, or with the host polling, the next step is `exec` of
the decoded word; with an access or a reset pending a free value decides which comes first (R207). The same holds of a word placed
by `withFetchWord`. The order of the agents and the placement are the model's choice (log 2, 3, 4). -/
def Obligations.StepRunsLatchedCommand : Prop :=
  (∀ (s : State) (l : Latch) (i : Instr), s.latch = some l → decode l.word = .ok i →
    (s.pending = [] → step s = exec i s) ∧
    (∀ es, s.pending = .wait :: es → step s = exec i s) ∧
    (∀ e es, s.pending = e :: es → e ≠ .wait → step s =
      if Config.hostFirst s.draws = true then performEvent ((s.advance 1).setPending es) e else exec i (s.advance 1))) ∧
  (∀ (s : State) (w : Nat) (i : Instr), w < 2 ^ 32 → decodeTableWord 32 w = some i →
    step (s.withFetchWord 32 w) = exec i (s.withFetchWord 32 w))

/-- R87: a latched word that is illegal completes with E_ILLEGAL and changes no other state, with nothing on the bus and with the host
polling (R92). With an access or a reset pending a free value decides which comes first, as for a legal word (R207; the order of the
agents is the model's choice, log 3, 4). -/
def Obligations.IllegalWordCompletesWithError : Prop :=
  ∀ (s : State) (l : Latch) (e : DecodeError), s.latch = some l → decode l.word = .error e →
    ((s.pending = [] ∨ ∃ es, s.pending = .wait :: es) →
      ∃ t, step s = .next t ∧ t.latch = none ∧ t.err = true ∧ t.errCode = .illegal ∧ t.errCode.code = 0x01 ∧
        t.polys = s.polys ∧ t.regs = s.regs ∧ t.result = s.result ∧ t.fieldValid = s.fieldValid ∧ t.overrun = s.overrun ∧
        t.field = s.field ∧ t.cache = s.cache ∧ t.cw = s.cw ∧ t.pending = s.pending ∧ t.responses = s.responses ∧
        t.draws = s.draws) ∧
    (∀ e' es, s.pending = e' :: es → e' ≠ .wait → step s =
      if Config.hostFirst s.draws = true then performEvent ((s.advance 1).setPending es) e'
      else .next ((s.advance 1).fail .illegal))

/-- R208, R70: a CMD write while idle is accepted: the latch takes the word and the operand registers, BUSY is set, ERR and ERRCODE
are cleared, and nothing else changes.
The offsets are those of aligned addresses (the model's choice, log 29). -/
def Obligations.CmdWriteIsAccepted : Prop :=
  ∀ (s : State) (v : Word), s.busy = false →
    ∃ t, busAccess s (.write .word 0x010 v) = .next t ∧ t.latch = some { word := v, args := s.regs } ∧ t.busy = true ∧
      t.err = false ∧ t.errCode = .noError ∧ t.regs = s.regs ∧ t.operands = s.regs ∧ t.polys = s.polys ∧
      t.result = s.result ∧ t.fieldValid = s.fieldValid ∧ t.overrun = s.overrun ∧ t.field = s.field ∧ t.cache = s.cache ∧
      t.cw = s.cw ∧ t.responses = .done :: s.responses ∧ t.pending = s.pending ∧ t.draws = s.draws

/-- R216, R69: an idle block with nothing on the bus keeps all its state; otherwise its next step is the host's next event. -/
def Obligations.IdleBlockWaitsForHost : Prop :=
  ∀ s : State, s.busy = false →
    (s.pending = [] → step s = .next s) ∧
    (∀ e es, s.pending = e :: es → step s = performEvent (s.setPending es) e)

/-- R203, R208, R239: every step of a busy block either ends the command (BUSY = 0) or takes one event off the host's list and
leaves the running command unaffected; so an accepted command completes after finitely many steps. -/
def Obligations.BusyBlockCompletes : Prop :=
  ∀ s t : State, s.busy = true → step s = .next t →
    t.busy = false ∨ (t.latch = s.latch ∧ t.pending.length < s.pending.length)

/-! ### Reset -/

/-- R231: what power-on reset leaves, for every piece of state the spec gives a value. -/
def Obligations.ResetLeavesStatedValues : Prop :=
  State.reset.statusWord = 0 ∧ State.reset.busy = false ∧ State.reset.err = false ∧ State.reset.fieldValid = false ∧
  State.reset.overrun = false ∧ State.reset.errCode = .noError ∧ State.reset.result = 0 ∧ State.reset.cacheDeg = 0 ∧
  State.reset.cache = [[1]] ∧ State.reset.regs.fieldM = 0 ∧ State.reset.regs.fieldPoly = 0 ∧
  State.reset.regs.fieldBase = 0 ∧ State.reset.regs.arg0 = 0 ∧ State.reset.regs.arg1 = 0 ∧ State.reset.regs.arg2 = 0 ∧
  State.reset.regs.arg3 = 0 ∧ (∀ i : PReg, State.reset.polys[i] = none) ∧ State.reset.latch = none ∧
  (∀ a, cwGet State.reset.cw a = none)

/-- R230, R231, R233: the power-on reset input, at any time and from any state, leaves every piece of state the spec gives a reset
value at that value, and no codeword with a value; what is still to come on the bus stays (the event is the model's, log 21). -/
def Obligations.PowerOnResetActs : Prop :=
  ∀ s : State, ∃ t, performEvent s .powerOnReset = .next t ∧
    t.statusWord = 0 ∧ t.busy = false ∧ t.err = false ∧ t.fieldValid = false ∧ t.overrun = false ∧ t.errCode = .noError ∧
    t.result = 0 ∧ t.cacheDeg = 0 ∧ t.cache = [[1]] ∧ t.regs.fieldM = 0 ∧ t.regs.fieldPoly = 0 ∧ t.regs.fieldBase = 0 ∧
    t.regs.arg0 = 0 ∧ t.regs.arg1 = 0 ∧ t.regs.arg2 = 0 ∧ t.regs.arg3 = 0 ∧ (∀ i : PReg, t.polys[i] = none) ∧
    t.latch = none ∧ (∀ a, cwGet t.cw a = none) ∧ t.pending = s.pending ∧ t.responses = s.responses ∧ t.draws = s.draws

/-- The reset state meets the machine's invariant. -/
def Obligations.ResetMeetsInvariant : Prop := State.reset.Inv

/-- The machine's invariant (R22, R23, R36 to R39, R62, R203) is kept by every step, from every state that meets it. -/
def Obligations.StepKeepsInvariant : Prop :=
  ∀ s t : State, s.Inv → step s = .next t → t.Inv

/-- The codeword buffer's canonical form is kept by every step, with no other premise. -/
def Obligations.StepKeepsMemoryCanonical : Prop :=
  ∀ s t : State, Memory.wf s.cw = true → step s = .next t → Memory.wf t.cw = true

/-- R33, R231: a CTRL write acts at any time. SOFT_RESET wins over CLR_OVR; it leaves every piece of state the spec gives a reset
value at that value, the codeword buffer of an idle block unchanged; CLR_OVR alone clears OVERRUN; other bits do nothing.
The offsets are those of aligned addresses (the model's choice, log 29). -/
def Obligations.ControlWriteActs : Prop :=
  ∀ (s : State) (v : Word),
    (v.getLsbD 0 = true → ∃ t, busAccess s (.write .word 0x008 v) = .next t ∧
      t.statusWord = 0 ∧ t.result = 0 ∧ t.cacheDeg = 0 ∧ t.cache = [[1]] ∧ t.regs = OperandRegs.reset ∧
      (∀ i : PReg, t.polys[i] = none) ∧ t.latch = none ∧ t.overrun = false ∧ (s.busy = false → t.cw = s.cw)) ∧
    (v.getLsbD 0 = false → v.getLsbD 1 = true →
      busAccess s (.write .word 0x008 v) = .next ({ s with overrun := false }.respond .done)) ∧
    (v.getLsbD 0 = false → v.getLsbD 1 = false → busAccess s (.write .word 0x008 v) = .next (s.respond .done))

/-- R232: a soft reset aborts the running command. Entries outside the command's write range keep their values, so a command that
writes no codeword leaves the whole buffer; every other piece of state the spec gives a reset value takes it (R231). Three readings
are the model's, not R232's (log 8): an illegal word has no write range, a POLY_STORE of a register with PV = 0 has none (both
DEDUCED and unsafe: the whole buffer is kept), and the range's bounds are exact integers (DESIGN CHOICE). -/
def Obligations.AbortTouchesOnlyWriteRange : Prop :=
  ∀ (s : State) (l : Latch), s.latch = some l →
    (∀ i, decode l.word = .ok i →
      (∀ a, (a < (writeRange i s).start ∨ (writeRange i s).start + (writeRange i s).count ≤ a) →
        cwGet s.softReset.cw a = cwGet s.cw a) ∧
      ((writeRange i s).count = 0 → s.softReset.cw = s.cw) ∧
      ((∀ rs1, i ≠ .polyStore rs1) → i ≠ .rsEncode → i ≠ .rsSynd → s.softReset.cw = s.cw)) ∧
    (∀ e, decode l.word = .error e → s.softReset.cw = s.cw) ∧
    s.softReset.statusWord = 0 ∧ s.softReset.busy = false ∧ s.softReset.err = false ∧ s.softReset.fieldValid = false ∧
    s.softReset.overrun = false ∧ s.softReset.errCode = .noError ∧ s.softReset.result = 0 ∧ s.softReset.cacheDeg = 0 ∧
    s.softReset.cache = [[1]] ∧ s.softReset.regs = OperandRegs.reset ∧ (∀ i : PReg, s.softReset.polys[i] = none) ∧
    s.softReset.latch = none ∧ s.softReset.pending = s.pending ∧ s.softReset.responses = s.responses

/-! ### The register window -/

/-- R61: any access but a 32-bit one at a multiple of 4 gets a bus error and has no effect on any state of the block; OVERRUN is not
set. The alignment is the offset's: that BASE_ADDR is a multiple of 4 is the model's choice (log 29). -/
def Obligations.BusErrorChangesNothing : Prop :=
  ∀ (s : State) (w : Width) (offset : Nat), offset < Config.windowBytes → (w ≠ .word ∨ offset % 4 ≠ 0) →
    (∀ v, busAccess s (.write w offset v) = .next { s with responses := .writeError :: s.responses }) ∧
    (∃ d, busAccess s (.read w offset) =
      .next { s with responses := .readError d :: s.responses, draws := s.draws + 1 })

/-- R42: while BUSY = 1 a write to CTRL acts normally, any other write only sets OVERRUN, a read of ID, CAPS, STATUS or CTRL returns
its value, a read of CMD or a reserved offset returns 0, and every other read returns some value and changes nothing. The
offsets are those of aligned addresses (BASE_ADDR a multiple of 4: the model's choice, log 29). -/
def Obligations.BusyWindowRule : Prop :=
  ∀ (s : State) (offset : Nat), s.busy = true → offset < Config.windowBytes → offset % 4 = 0 →
    (∀ v, busAccess s (.write .word offset v) =
      .next ((if offset = 0x008 then ctrlWrite s v else { s with overrun := true }).respond .done)) ∧
    (offset = 0x000 → busAccess s (.read .word offset) = .next (s.respond (.data 0x52530007))) ∧
    (offset = 0x004 → busAccess s (.read .word offset) = .next (s.respond (.data 0x1000008C))) ∧
    (offset = 0x00C → busAccess s (.read .word offset) = .next (s.respond (.data s.statusWord))) ∧
    (offset = 0x008 ∨ offset = 0x010 ∨ offset = 0x01C ∨ offset = 0x02C ∨ (0x040 ≤ offset ∧ offset < 0x4000) →
      busAccess s (.read .word offset) = .next (s.respond (.data 0))) ∧
    (offset = 0x014 ∨ offset = 0x018 ∨ offset = 0x020 ∨ offset = 0x024 ∨ offset = 0x028 ∨
      (0x030 ≤ offset ∧ offset < 0x040) ∨ 0x4000 ≤ offset →
      ∃ d, busAccess s (.read .word offset) = .next ((s.respond (.data d)).advance 1))

/-- R65: no read has a side effect: it changes only what the model keeps of the bus. -/
def Obligations.ReadsHaveNoSideEffect : Prop :=
  ∀ (s t : State) (w : Width) (offset : Nat), busAccess s (.read w offset) = .next t →
    ∃ r n, t = { s with responses := r :: s.responses, draws := n }

/-- R31, R32, R67: ID and CAPS read as their constants at all times; of an idle block the write-only and reserved offsets read 0, and
read-only and reserved offsets ignore a write. An idle block answers a read of RESULT with the result (R26), and one of CACHE_DEG
with len(CACHE) - 1 in bits [12:0] and 0 above (R35). The offsets are those of aligned addresses (BASE_ADDR a multiple of 4: the
model's choice, log 29). -/
def Obligations.ReadOnlyWindow : Prop :=
  (∀ s : State, busAccess s (.read .word 0x000) = .next (s.respond (.data 0x52530007)) ∧
    busAccess s (.read .word 0x004) = .next (s.respond (.data 0x1000008C))) ∧
  (∀ (s : State) (offset : Nat), s.busy = false → offset % 4 = 0 →
    (offset = 0x008 ∨ offset = 0x010 ∨ offset = 0x01C ∨ offset = 0x02C ∨ (0x040 ≤ offset ∧ offset < 0x4000) →
      busAccess s (.read .word offset) = .next (s.respond (.data 0))) ∧
    (offset = 0x000 ∨ offset = 0x004 ∨ offset = 0x00C ∨ offset = 0x014 ∨ offset = 0x018 ∨ offset = 0x01C ∨
      offset = 0x02C ∨ (0x040 ≤ offset ∧ offset < 0x4000) →
      ∀ v, busAccess s (.write .word offset v) = .next (s.respond .done))) ∧
  (∀ s : State, s.busy = false →
    busAccess s (.read .word 0x014) = .next (s.respond (.data s.result)) ∧
    busAccess s (.read .word 0x018) = .next (s.respond (.data s.cacheDeg)) ∧
    s.cacheDeg.extractLsb' 13 19 = 0 ∧ (s.cache.length ≤ Config.nmax → s.cacheDeg.toNat = s.cache.length - 1))

/-- R25, R27 to R29: of an idle block, an operand register reads back what was written, the bits it does not store as 0; every other
operand register keeps its value, and the write changes no other state.
The offsets are those of aligned addresses (the model's choice, log 29). -/
def Obligations.OperandRegistersReadBack : Prop :=
  ∀ (s : State) (v : Word), s.busy = false →
    ∀ c ∈ ([(0x030, 0xFFFFFFFF, { s.regs with arg0 := v }), (0x034, 0xFFFFFFFF, { s.regs with arg1 := v }),
            (0x038, 0xFFFFFFFF, { s.regs with arg2 := v }), (0x03C, 0xFFFFFFFF, { s.regs with arg3 := v }),
            (0x020, 0x0000000F, { s.regs with fieldM := v.extractLsb' 0 4 }),
            (0x024, 0x00001FFF, { s.regs with fieldPoly := v.extractLsb' 0 13 }),
            (0x028, 0x00000FFF, { s.regs with fieldBase := v.extractLsb' 0 12 })] : List (Nat × Word × OperandRegs)),
      ∃ t, busAccess s (.write .word c.1 v) = .next t ∧
        busAccess t (.read .word c.1) = .next (t.respond (.data (v &&& c.2.1))) ∧
        t = { s with regs := c.2.2, responses := .done :: s.responses }

/-- R62: of an idle block, a write to CW[a] stores its bits [15:0], a read of CW[a] returns them zero-extended, and no other entry and
no other state changes.
The offsets are those of aligned addresses (the model's choice, log 29). -/
def Obligations.CodewordWindowReadsBack : Prop :=
  ∀ (s : State) (a : Nat) (v : Word), s.busy = false → a < Config.nmax →
    ∃ t, busAccess s (.write .word (0x4000 + 4 * a) v) = .next t ∧
      busAccess t (.read .word (0x4000 + 4 * a)) = .next (t.respond (.data (v &&& 0x0000FFFF))) ∧
      cwGet t.cw a = some (v.setWidth 16) ∧ (∀ b, b ≠ a → cwGet t.cw b = cwGet s.cw b) ∧
      t = { s with cw := t.cw, responses := .done :: s.responses }

/-- R34: the layout of STATUS, and that the host reads it at any time (R42).
The offsets are those of aligned addresses (the model's choice, log 29). -/
def Obligations.StatusWordLayout : Prop :=
  ∀ s : State,
    s.statusWord.getLsbD 0 = s.busy ∧ s.statusWord.getLsbD 1 = s.err ∧ s.statusWord.getLsbD 2 = s.fieldValid ∧
    s.statusWord.getLsbD 3 = s.overrun ∧ s.statusWord.extractLsb' 4 4 = 0 ∧
    s.statusWord.extractLsb' 8 8 = s.errCode.code ∧ s.statusWord.extractLsb' 16 16 = 0 ∧
    busAccess s (.read .word 0x00C) = .next (s.respond (.data s.statusWord))

/-- R233: a command stops only on a codeword of the range it reads that nothing has written, and only the commands that read codewords
do. A bus access stops only where it is an idle read of such an entry, or is not in the window (the fault of the model's own choice,
log 17); and an idle read of such an entry does stop.
The offsets are those of aligned addresses (the model's choice, log 29). -/
def Obligations.OnlyUnwrittenReadsStop : Prop :=
  (∀ (s : State) (i : Instr) (f : Fault), exec i s = .fault f →
    ((∃ rd, i = .polyLoad rd) ∨ i = .rsEncode ∨ i = .rsSynd) ∧
    ∃ a, f = .unwrittenCodeword a ∧ (i.readRange s).start ≤ a ∧ a < (i.readRange s).start + (i.readRange s).count ∧
      a < Config.nmax ∧ cwGet s.cw a = none) ∧
  (∀ (s : State) (i : Instr) (r : Refusal), exec i s ≠ .refused r) ∧
  (∀ (s : State) (b : Access) (f : Fault), busAccess s b = .fault f →
    (∃ offset, Config.windowBytes ≤ offset ∧ f = .outsideWindow offset ∧
      ((∃ w, b = .read w offset) ∨ (∃ w v, b = .write w offset v))) ∨
    (s.busy = false ∧ ∃ a, b = .read .word (0x4000 + 4 * a) ∧ a < Config.nmax ∧ f = .unwrittenCodeword a ∧
      cwGet s.cw a = none)) ∧
  (∀ (s : State) (b : Access) (r : Refusal), busAccess s b ≠ .refused r) ∧
  (∀ (s : State) (a : Nat), s.busy = false → a < Config.nmax → cwGet s.cw a = none →
    busAccess s (.read .word (0x4000 + 4 * a)) = .fault (.unwrittenCodeword a))

/-! ### Errors and completion -/

/-- R89, R200 (E_NO_FIELD): every command but GF_CFG, of a legal form, fails with E_NO_FIELD while FIELD_VALID = 0, and changes nothing
else. -/
def Obligations.NoFieldFailsEveryCommand : Prop :=
  ∀ (s : State) (i : Instr), i ≠ .gfCfg → i.wellFormed = true → s.fieldValid = false → exec i s = .next (s.fail .noField)

/-- R23, R89 (E_UNINIT): a legal command that names a source register with PV = 0 fails with E_UNINIT and changes nothing else. -/
def Obligations.InvalidSourceFails : Prop :=
  ∀ (s : State) (i : Instr), i.wellFormed = true → s.fieldValid = true → (∃ r ∈ i.sources, s.polys[r] = none) →
    exec i s = .next (s.fail .uninit)

/-- R201: an error changes nothing except BUSY, ERR and ERRCODE; the one exception, E_FIELD_INVALID from GF_CFG, also clears
FIELD_VALID, every PV and the cache, and leaves no table entry listed (the model's form of unspecified tables, log 10). -/
def Obligations.ErrorsArePrecise : Prop :=
  ∀ (s t : State) (i : Instr), exec i s = .next t → t.err = true →
    (i ≠ .gfCfg → t = s.fail t.errCode) ∧
    (i = .gfCfg → t.errCode = .fieldInvalid ∧ t.fieldValid = false ∧ (∀ j : PReg, t.polys[j] = none) ∧
      t.cache = [[1]] ∧ t.cacheDeg = 0 ∧ t.field.expTab = [] ∧ t.field.logTab = [] ∧ t.result = s.result ∧ t.cw = s.cw ∧
      KeepsHostSide s t)

/-- R200: a legal command raises only the errors the table gives it. -/
def Obligations.ErrorCodesAreThoseOfTheTable : Prop :=
  ∀ (s t : State) (i : Instr), i.wellFormed = true → exec i s = .next t → t.err = true → t.errCode ∈ i.mayRaise

/-- R203, R25: every completion clears BUSY and reports in ERR and ERRCODE; no command writes the host's registers or OVERRUN. -/
def Obligations.CompletionReportsInStatus : Prop :=
  ∀ (s t : State) (i : Instr), exec i s = .next t →
    t.latch = none ∧ ((t.err = false ∧ t.errCode = .noError) ∨ (t.err = true ∧ t.errCode ≠ .noError)) ∧ KeepsHostSide s t

/-! ### The Galois-field unit -/

/-- R101: the parameters GF_CFG accepts are those of a full cycle: alpha^0 .. alpha^(SIZE-2) are pairwise distinct and nonzero, and
alpha^(SIZE-1) = 1. -/
def Obligations.FieldCheckIsFullCycle : Prop :=
  ∀ (m : BitVec 4) (poly : BitVec 13), fieldOk m poly = true ↔
    (1 ≤ m.toNat ∧ m.toNat ≤ 12 ∧ 2 ^ m.toNat ≤ poly.toNat ∧ poly.toNat < 2 ^ (m.toNat + 1) ∧
     (∀ i j, i < j → j < 2 ^ m.toNat - 1 → alphaPow m poly i ≠ alphaPow m poly j) ∧
     (∀ i, i < 2 ^ m.toNat - 1 → alphaPow m poly i ≠ 0) ∧ alphaPow m poly (2 ^ m.toNat - 1) = 1)

/-- R101, R36 to R38: a GF_CFG with legal parameters completes; EXP[i] = alpha^i, LOG[EXP[i]] = i, the parameters are latched, and
every polynomial and the cache are discarded; nothing else changes. -/
def Obligations.GfCfgBuildsField : Prop :=
  ∀ s : State, fieldOk s.operands.fieldM s.operands.fieldPoly = true →
    ∃ t, exec .gfCfg s = .next t ∧ t.fieldValid = true ∧ t.err = false ∧ t.errCode = .noError ∧ t.latch = none ∧
      t.field.am = s.operands.fieldM ∧ t.field.apoly = s.operands.fieldPoly ∧ t.field.abase = s.operands.fieldBase ∧
      t.field.expTab.length = t.field.size ∧
      (∀ i, i < t.field.size → t.field.expTab[i]? = some (alphaPow s.operands.fieldM s.operands.fieldPoly i)) ∧
      (∀ i, i < t.field.size - 1 →
        (gfLog t.field (alphaPow s.operands.fieldM s.operands.fieldPoly i)).toNat = i) ∧
      (∀ j : PReg, t.polys[j] = none) ∧ t.cache = [[1]] ∧ t.cacheDeg = 0 ∧ t.result = s.result ∧ t.cw = s.cw ∧
      KeepsHostSide s t

/-- R101, R201: a GF_CFG with illegal parameters fails with E_FIELD_INVALID; FIELD_VALID is 0 and the old field's polynomials and
generators are gone; RESULT and CW stay. -/
def Obligations.GfCfgRejectsInvalidField : Prop :=
  ∀ s : State, fieldOk s.operands.fieldM s.operands.fieldPoly = false →
    ∃ t, exec .gfCfg s = .next t ∧ t.fieldValid = false ∧ t.err = true ∧ t.errCode = .fieldInvalid ∧ t.latch = none ∧
      (∀ j : PReg, t.polys[j] = none) ∧ t.cache = [[1]] ∧ t.cacheDeg = 0 ∧ t.result = s.result ∧ t.cw = s.cw ∧
      KeepsHostSide s t

/-- R107, whole: GF_ADD's one legal word, its result and its errors. -/
def Obligations.GfAddWholeRule : Prop :=
  encode .gfAdd = 0x00000011 ∧ (∀ w, fieldOp w = 0x11 → w ≠ 0x00000011 → decode w = .error .reservedBits) ∧
  ∀ s : State, exec .gfAdd s = .next
    (if s.fieldValid = false then s.fail .noField
     else if s.field.size ≤ s.operands.arg0.toNat ∨ s.field.size ≤ s.operands.arg1.toNat then s.fail .range
     else { s with
       result := (s.operands.arg0.setWidth 12 ^^^ s.operands.arg1.setWidth 12 : Elem).setWidth 32
       latch := none, err := false, errCode := .noError })

/-- R104, R108, R113: in a configured field GF_MUL completes, and its result is the carry-less product of its operands reduced modulo
the field's polynomial. -/
def Obligations.GfMulIsCarrylessProduct : Prop :=
  ∀ s : State, s.fieldValid = true → s.field.Valid →
    s.operands.arg0.toNat < s.field.size → s.operands.arg1.toNat < s.field.size →
    exec .gfMul s = .next (s.setResult (toWord
      (clmulMod s.field (s.operands.arg0.setWidth 12) (s.operands.arg1.setWidth 12)))).complete

/-- R106, R109: in a configured field GF_DIV by a nonzero divisor completes with the one element that times the divisor is the
dividend. -/
def Obligations.GfDivUndoesMultiplication : Prop :=
  ∀ s : State, s.fieldValid = true → s.field.Valid →
    s.operands.arg0.toNat < s.field.size → s.operands.arg1.toNat < s.field.size → s.operands.arg1 ≠ 0 →
    ∃ q : Elem, exec .gfDiv s = .next (s.setResult (toWord q)).complete ∧ InField s.field q ∧
      gfMul s.field q (s.operands.arg1.setWidth 12) = s.operands.arg0.setWidth 12 ∧
      ∀ q', InField s.field q' → gfMul s.field q' (s.operands.arg1.setWidth 12) = s.operands.arg0.setWidth 12 → q' = q

/-- R105, R110, R113: in a configured field GF_INV of a nonzero element completes with its inverse. -/
def Obligations.GfInvIsInverse : Prop :=
  ∀ s : State, s.fieldValid = true → s.field.Valid → s.operands.arg0.toNat < s.field.size → s.operands.arg0 ≠ 0 →
    ∃ y : Elem, exec .gfInv s = .next (s.setResult (toWord y)).complete ∧ InField s.field y ∧
      gfMul s.field (s.operands.arg0.setWidth 12) y = 1

/-- R102, R111: in a configured field GF_EXP completes for every 32-bit exponent i with alpha^i, the i-fold doubling of 1. -/
def Obligations.GfExpIsPowerOfAlpha : Prop :=
  ∀ s : State, s.fieldValid = true → s.field.Valid →
    exec .gfExp s = .next (s.setResult (toWord
      (alphaPow s.field.am s.field.apoly s.operands.arg0.toNat))).complete

/-- R103, R112: in a configured field GF_LOG of a nonzero element x completes with the one i <= SIZE - 2 for which alpha^i = x. -/
def Obligations.GfLogIsDiscreteLog : Prop :=
  ∀ s : State, s.fieldValid = true → s.field.Valid → s.operands.arg0.toNat < s.field.size → s.operands.arg0 ≠ 0 →
    ∃ i : Elem, exec .gfLog s = .next (s.setResult (toWord i)).complete ∧ i.toNat < s.field.size - 1 ∧
      alphaPow s.field.am s.field.apoly i.toNat = s.operands.arg0.setWidth 12 ∧
      ∀ j, j < s.field.size - 1 → alphaPow s.field.am s.field.apoly j = s.operands.arg0.setWidth 12 → j = i.toNat

/-- R113: in a configured field multiplication is closed, commutative, associative and distributes over xor, absorbs zero, and
logarithm and inverse undo exponential and multiplication. -/
def Obligations.FieldLaws : Prop :=
  ∀ f : ActiveField, f.Valid → ∀ x y z : Elem, InField f x → InField f y → InField f z →
    InField f (gfMul f x y) ∧ gfMul f x y = gfMul f y x ∧ gfMul f (gfMul f x y) z = gfMul f x (gfMul f y z) ∧
    gfMul f x (y ^^^ z) = gfMul f x y ^^^ gfMul f x z ∧ gfMul f x 0 = 0 ∧ gfMul f x 1 = x ∧
    (x ≠ 0 → gfExp f (gfLog f x).toNat = x ∧ gfMul f x (gfInv f x) = 1)

/-- R107 to R110, R112, R202: with a field, an operand out of range fails with E_RANGE, before a zero divisor, argument of an inverse
or of a logarithm fails with E_GF_ZERO. -/
def Obligations.GfOperandErrors : Prop :=
  ∀ s : State, s.fieldValid = true →
    (s.field.size ≤ s.operands.arg0.toNat → ∀ i ∈ [Instr.gfAdd, .gfMul, .gfDiv, .gfInv, .gfLog],
      exec i s = .next (s.fail .range)) ∧
    (s.field.size ≤ s.operands.arg1.toNat → ∀ i ∈ [Instr.gfAdd, .gfMul, .gfDiv], exec i s = .next (s.fail .range)) ∧
    (s.operands.arg0.toNat < s.field.size → s.operands.arg1 = 0 →
      exec .gfDiv s = .next (s.fail .gfZero)) ∧
    (s.operands.arg0 = 0 → ∀ i ∈ [Instr.gfInv, .gfLog], exec i s = .next (s.fail .gfZero))

/-! ### The polynomial unit -/

/-- R130: normalize strips leading zeros and nothing else, and keeps one coefficient. -/
def Obligations.NormalizeStripsLeadingZeros : Prop :=
  ∀ c : PolyVal, c ≠ [] → Normalized (normalizePoly c) ∧ ∃ k, c = zeros k ++ normalizePoly c

/-- R140: POLY_LOAD of a range of codewords that are all field elements completes; it leaves the normalized list in P[rd] and changes
nothing else. -/
def Obligations.PolyLoadResult : Prop :=
  ∀ (s : State) (rd : PReg) (w : PolyVal), s.fieldValid = true →
    s.operands.arg1.toNat = w.length → w ≠ [] → s.operands.arg0.toNat + w.length ≤ Config.nmax →
    HoldsElems s.field s.cw s.operands.arg0.toNat w →
    exec (.polyLoad rd) s = .next (s.setPoly rd (normalizePoly w)).complete

/-- R141: POLY_STORE of a valid register whose coefficients fit completes; the coefficients lie at start, highest degree first, RESULT
is their number, every other byte and all other state stay. -/
def Obligations.PolyStoreResult : Prop :=
  ∀ (s : State) (rs1 : PReg) (p : PolyVal), s.fieldValid = true → s.polys[rs1] = some p →
    s.operands.arg0.toNat + p.length ≤ Config.nmax →
    ∃ t, exec (.polyStore rs1) s = .next t ∧ t.err = false ∧ t.result.toNat = p.length ∧
      (∀ k, k < p.length → cwGet t.cw (s.operands.arg0.toNat + k) = some (toCodeword (p[k]?.getD 0))) ∧
      SameOutside (storeRange s p) s.cw t.cw ∧
      t = { s with cw := t.cw, result := t.result, latch := none, err := false, errCode := .noError }

/-- R134, R142: POLY_ADD of two valid registers completes; every coefficient of the normalized result is the xor of theirs. -/
def Obligations.PolyAddResult : Prop :=
  ∀ (s : State) (rd rs1 rs2 : PReg) (a b : PolyVal), s.fieldValid = true → s.polys[rs1] = some a → s.polys[rs2] = some b →
    a ≠ [] → b ≠ [] →
    ∃ r, exec (.polyAdd rd rs1 rs2) s = .next (s.setPoly rd r).complete ∧ Normalized r ∧
      r.length ≤ max a.length b.length ∧ ∀ d : Nat, coef r d = coef a d ^^^ coef b d

/-- R136, R139, R143: POLY_MUL of two valid registers completes when the product fits; every coefficient is the convolution sum, and
for nonzero operands the degrees add; when it does not fit, and neither is zero, the command fails with E_CAPACITY. -/
def Obligations.PolyMulIsConvolution : Prop :=
  ∀ (s : State) (rd rs1 rs2 : PReg) (a b : PolyVal), s.fieldValid = true → s.field.Valid →
    s.polys[rs1] = some a → s.polys[rs2] = some b → PolyOk s.field a → PolyOk s.field b →
    ((a = [0] ∨ b = [0] ∨ a.length + b.length - 1 ≤ Config.nmax) →
      ∃ r, exec (.polyMul rd rs1 rs2) s = .next (s.setPoly rd r).complete ∧ PolyOk s.field r ∧
        (∀ d : Nat, coef r d =
          xorSum ((List.range (d + 1)).map (fun i : Nat => gfMul s.field (coef a i) (coef b ((d - i : Nat) : Int))))) ∧
        (a ≠ [0] → b ≠ [0] → deg r = deg a + deg b)) ∧
    (a ≠ [0] → b ≠ [0] → Config.nmax < a.length + b.length - 1 →
      exec (.polyMul rd rs1 rs2) s = .next (s.fail .capacity))

/-- R135, R144: POLY_MULMONO completes when the result fits: coefficient k + d of the result is coefficient k of the operand times c,
and the coefficients below d are 0; a result that is the zero polynomial never fails for capacity. -/
def Obligations.PolyMulmonoResult : Prop :=
  ∀ (s : State) (rd rs1 : PReg) (p : PolyVal), s.fieldValid = true → s.field.Valid → s.polys[rs1] = some p →
    PolyOk s.field p → s.operands.arg1.toNat < s.field.size →
    (s.operands.arg1 = 0 ∨ p = [0] ∨ p.length + s.operands.arg0.toNat ≤ Config.nmax) →
    ∃ r, exec (.polyMulmono rd rs1) s = .next (s.setPoly rd r).complete ∧ PolyOk s.field r ∧
      (∀ k : Nat, coef r ((k + s.operands.arg0.toNat : Nat) : Int) =
        gfMul s.field (coef p k) (s.operands.arg1.setWidth 12)) ∧
      (∀ k : Nat, k < s.operands.arg0.toNat → coef r k = 0) ∧
      (s.operands.arg1 ≠ 0 → p ≠ [0] → r.length = p.length + s.operands.arg0.toNat)

/-- R137, R145: POLY_DIV of valid registers by a nonzero divisor completes with a quotient and a remainder: a = q b + r, and r is of
lower degree than b or zero. -/
def Obligations.PolyDivIsDivisionWithRemainder : Prop :=
  ∀ (s : State) (rd re rs1 rs2 : PReg) (a b : PolyVal), rd ≠ re → s.fieldValid = true → s.field.Valid →
    s.polys[rs1] = some a → s.polys[rs2] = some b → PolyOk s.field a → PolyOk s.field b → b ≠ [0] →
    ∃ q r, exec (.polyDiv rd re rs1 rs2) s = .next ((s.setPoly rd q).setPoly re r).complete ∧
      PolyOk s.field q ∧ PolyOk s.field r ∧ a = polyAdd (polyMul s.field q b) r ∧ (deg r < deg b ∨ r = [0])

/-- R150: the round trip: dividing a b + c by b, with c of lower degree than b, gives back a and c; and with a constant b dividing
a b by b gives a and [0]. -/
def Obligations.DivisionRoundTrip : Prop :=
  ∀ (f : ActiveField) (a b c : PolyVal), f.Valid → PolyOk f a → PolyOk f b → PolyOk f c → b ≠ [0] →
    (deg c < deg b → polyDivmod f (polyAdd (polyMul f a b) c) b = (a, c)) ∧
    (deg b = 0 → polyDivmod f (polyMul f a b) b = (a, [0]))

/-- R146 to R148, whole: the words, results and errors of POLY_COEF, POLY_DEG and POLY_ISZERO; a degree that is negative or above the
polynomial's gives 0. -/
def Obligations.PolyQueriesWholeRules : Prop :=
  (∀ r : PReg, encode (.polyCoef r) = 0x00000026 + (BitVec.ofNat 32 r.val <<< 16) ∧
    encode (.polyDeg r) = 0x00000027 + (BitVec.ofNat 32 r.val <<< 16) ∧
    encode (.polyIszero r) = 0x00000028 + (BitVec.ofNat 32 r.val <<< 16)) ∧
  (∀ w, fieldOp w = 0x26 ∨ fieldOp w = 0x27 ∨ fieldOp w = 0x28 → w &&& ~~~0x000700FF ≠ 0 → decode w = .error .reservedBits) ∧
  (∀ (s : State) (r : PReg), s.fieldValid = false → ∀ i ∈ [Instr.polyCoef r, .polyDeg r, .polyIszero r],
    exec i s = .next (s.fail .noField)) ∧
  (∀ (s : State) (r : PReg), s.fieldValid = true → s.polys[r] = none →
    ∀ i ∈ [Instr.polyCoef r, .polyDeg r, .polyIszero r], exec i s = .next (s.fail .uninit)) ∧
  (∀ (s : State) (r : PReg) (p : PolyVal), s.fieldValid = true → s.polys[r] = some p →
    exec (.polyCoef r) s = .next (s.setResult (toWord
      (if 0 ≤ s.operands.arg0.toInt ∧ s.operands.arg0.toInt < p.length
        then p[p.length - 1 - s.operands.arg0.toInt.toNat]?.getD 0 else 0))).complete ∧
    exec (.polyDeg r) s = .next (s.setResult (BitVec.ofNat 32 (p.length - 1))).complete ∧
    exec (.polyIszero r) s = .next (s.setResult (if p = [0] then 1 else 0)).complete)

/-- R138, R149: POLY_EVAL at an element completes with the sum of c[k] x^(len-1-k). -/
def Obligations.PolyEvalIsPowerSum : Prop :=
  ∀ (s : State) (rs1 : PReg) (p : PolyVal), s.fieldValid = true → s.field.Valid → s.polys[rs1] = some p →
    PolyOk s.field p → s.operands.arg0.toNat < s.field.size →
    exec (.polyEval rs1) s = .next (s.setResult (toWord
      (evalSum s.field p (s.operands.arg0.setWidth 12)))).complete

/-- R140, R141, R144, R145, R149, R202: the POLY commands' own errors, in their order. -/
def Obligations.PolyOperandErrors : Prop :=
  ∀ (s : State) (rd re rs1 rs2 : PReg), s.fieldValid = true →
    (s.operands.arg1 = 0 → exec (.polyLoad rd) s = .next (s.fail .empty)) ∧
    (s.operands.arg1 ≠ 0 → Config.nmax < s.operands.arg0.toNat + s.operands.arg1.toNat →
      exec (.polyLoad rd) s = .next (s.fail .capacity)) ∧
    (∀ ws : List Codeword, s.operands.arg1.toNat = ws.length → ws ≠ [] →
      s.operands.arg0.toNat + ws.length ≤ Config.nmax →
      (∀ k, k < ws.length → cwGet s.cw (s.operands.arg0.toNat + k) = ws[k]?) →
      (∃ v ∈ ws, s.field.size ≤ v.toNat) → exec (.polyLoad rd) s = .next (s.fail .range)) ∧
    (∀ p, s.polys[rs1] = some p →
      (Config.nmax < s.operands.arg0.toNat + p.length → exec (.polyStore rs1) s = .next (s.fail .capacity)) ∧
      (s.field.size ≤ s.operands.arg1.toNat → exec (.polyMulmono rd rs1) s = .next (s.fail .range)) ∧
      (s.field.size ≤ 4096 → s.operands.arg1.toNat < s.field.size → s.operands.arg1 ≠ 0 → p ≠ [0] →
        Config.nmax < p.length + s.operands.arg0.toNat →
        exec (.polyMulmono rd rs1) s = .next (s.fail .capacity)) ∧
      (s.field.size ≤ s.operands.arg0.toNat → exec (.polyEval rs1) s = .next (s.fail .range)) ∧
      (rd ≠ re → s.polys[rs2] = some [0] → exec (.polyDiv rd re rs1 rs2) s = .next (s.fail .polyDivZero)))

/-! ### The Reed-Solomon unit -/

/-- R170 to R172, R176: RS_GEN of a degree d below NMAX completes with g_d in P[rd], whatever was cached before; the cache keeps every
entry and holds every generator up to d; nothing else changes. A larger d fails with E_CAPACITY. -/
def Obligations.RsGenReturnsGenerator : Prop :=
  ∀ (s : State) (rd : PReg), s.Inv → s.fieldValid = true →
    (s.operands.arg0.toNat < Config.nmax →
      ∃ t, exec (.rsGen rd) s = .next t ∧ t.polys[rd] = some (generator s.field s.operands.arg0.toNat) ∧
        s.cache <+: t.cache ∧ t.cacheDeg.toNat = max s.cacheDeg.toNat s.operands.arg0.toNat ∧
        (∀ d, d < t.cache.length → t.cache[d]? = some (generator s.field d)) ∧
        (∀ j : PReg, j ≠ rd → t.polys[j] = s.polys[j]) ∧
        t = { s with polys := t.polys, cache := t.cache, latch := none, err := false, errCode := .noError }) ∧
    (Config.nmax ≤ s.operands.arg0.toNat → exec (.rsGen rd) s = .next (s.fail .capacity))

/-- R170: g_d is monic of degree d and its roots include alpha^BASE .. alpha^(BASE + d - 1). -/
def Obligations.GeneratorHasItsRoots : Prop :=
  ∀ (f : ActiveField) (d : Nat), f.Valid →
    (generator f d).length = d + 1 ∧ (generator f d).head? = some 1 ∧
    ∀ j, j < d → polyEval f (generator f d) (gfExp f (j + f.abase.toNat)) = 0

/-- R173, R176: RS_ENCODE of a block whose data words are field elements completes; the data words stay, and the EC words written after
them make the block, read as a polynomial, a multiple of g_ec (which fixes them), so that it is zero at the generator's ec roots. The
cache keeps its entries and holds g_d for every d up to ec; every byte outside the EC words and all other state stay. -/
def Obligations.RsEncodeMakesCodeword : Prop :=
  ∀ (s : State) (data : PolyVal), s.Inv → s.fieldValid = true →
    1 ≤ s.operands.arg2.toNat → data ≠ [] → s.operands.arg1.toNat = data.length + s.operands.arg2.toNat →
    s.operands.arg0.toNat + s.operands.arg1.toNat ≤ Config.nmax →
    HoldsElems s.field s.cw s.operands.arg0.toNat data →
    ∃ (t : State) (ecw q : PolyVal), exec .rsEncode s = .next t ∧ t.err = false ∧ ecw.length = s.operands.arg2.toNat ∧
      HoldsElems s.field t.cw s.operands.arg0.toNat (data ++ ecw) ∧
      PolyOk s.field q ∧ normalizePoly (data ++ ecw) = polyMul s.field q (generator s.field s.operands.arg2.toNat) ∧
      (∀ j, j < s.operands.arg2.toNat → polyEval s.field (data ++ ecw) (gfExp s.field (j + s.field.abase.toNat)) = 0) ∧
      SameOutside (encodeRange s) s.cw t.cw ∧ s.cache <+: t.cache ∧
      t.cacheDeg.toNat = max s.cacheDeg.toNat s.operands.arg2.toNat ∧
      t.cache[s.operands.arg2.toNat]? = some (generator s.field s.operands.arg2.toNat) ∧
      (∀ d, d < t.cache.length → t.cache[d]? = some (generator s.field d)) ∧
      t = { s with cw := t.cw, cache := t.cache, latch := none, err := false, errCode := .noError }

/-- R174, R175: RS_SYND of a received word completes: syndrome j is the word, as it stood before the command, evaluated at the
generator's j-th root; RESULT says whether any is nonzero; every other byte and all other state stay. -/
def Obligations.RsSyndWritesEvaluations : Prop :=
  ∀ (s : State) (w : PolyVal), s.fieldValid = true → s.field.Valid →
    1 ≤ s.operands.arg2.toNat → w ≠ [] → s.operands.arg1.toNat = w.length →
    s.operands.arg0.toNat + w.length ≤ Config.nmax →
    s.operands.arg3.toNat + s.operands.arg2.toNat ≤ Config.nmax →
    HoldsElems s.field s.cw s.operands.arg0.toNat w →
    ∃ t, exec .rsSynd s = .next t ∧ t.err = false ∧
      (∀ j, j < s.operands.arg2.toNat → cwGet t.cw (s.operands.arg3.toNat + j) =
        some (toCodeword (evalSum s.field w (alphaPow s.field.am s.field.apoly (j + s.field.abase.toNat))))) ∧
      ((t.result = 0 ∧ ∀ j, j < s.operands.arg2.toNat →
          evalSum s.field w (alphaPow s.field.am s.field.apoly (j + s.field.abase.toNat)) = 0) ∨
       (t.result = 1 ∧ ∃ j, j < s.operands.arg2.toNat ∧
          evalSum s.field w (alphaPow s.field.am s.field.apoly (j + s.field.abase.toNat)) ≠ 0)) ∧
      SameOutside (syndromeRange s) s.cw t.cw ∧
      t = { s with cw := t.cw, result := t.result, latch := none, err := false, errCode := .noError }

/-- R176: after a successful RS_ENCODE, RS_SYND over the same words with at most ec syndromes completes with RESULT = 0 and all-zero
syndromes. -/
def Obligations.EncodedBlockHasZeroSyndromes : Prop :=
  ∀ s t u : State, s.Inv → s.fieldValid = true → exec .rsEncode s = .next t → t.err = false →
    u.fieldValid = true → u.field = s.field → u.cw = t.cw →
    u.operands.arg0 = s.operands.arg0 → u.operands.arg1 = s.operands.arg1 →
    1 ≤ u.operands.arg2.toNat → u.operands.arg2.toNat ≤ s.operands.arg2.toNat →
    u.operands.arg3.toNat + u.operands.arg2.toNat ≤ Config.nmax →
    ∃ v, exec .rsSynd u = .next v ∧ v.err = false ∧ v.result = 0 ∧
      ∀ j, j < u.operands.arg2.toNat → cwGet v.cw (u.operands.arg3.toNat + j) = some 0

/-- R173, R175, R202: the RS commands' own errors, in their order. -/
def Obligations.RsOperandErrors : Prop :=
  ∀ s : State, s.fieldValid = true →
    (s.operands.arg2 = 0 → ∀ i ∈ [Instr.rsEncode, .rsSynd], exec i s = .next (s.fail .zeroEc)) ∧
    (s.operands.arg2 ≠ 0 → s.operands.arg1.toNat ≤ s.operands.arg2.toNat →
      exec .rsEncode s = .next (s.fail .insufficientData)) ∧
    (s.operands.arg2 ≠ 0 → s.operands.arg2.toNat < s.operands.arg1.toNat →
      Config.nmax < s.operands.arg0.toNat + s.operands.arg1.toNat → exec .rsEncode s = .next (s.fail .capacity)) ∧
    (s.operands.arg2 ≠ 0 → s.operands.arg1 = 0 → exec .rsSynd s = .next (s.fail .empty)) ∧
    (s.operands.arg2 ≠ 0 → s.operands.arg1 ≠ 0 →
      (Config.nmax < s.operands.arg0.toNat + s.operands.arg1.toNat ∨
       Config.nmax < s.operands.arg3.toNat + s.operands.arg2.toNat) → exec .rsSynd s = .next (s.fail .capacity)) ∧
    (∀ ws : List Codeword, s.operands.arg2 ≠ 0 → ws ≠ [] → s.operands.arg0.toNat + s.operands.arg1.toNat ≤ Config.nmax →
      (∀ k, k < ws.length → cwGet s.cw (s.operands.arg0.toNat + k) = ws[k]?) → (∃ v ∈ ws, s.field.size ≤ v.toNat) →
      (s.operands.arg1.toNat = ws.length + s.operands.arg2.toNat → exec .rsEncode s = .next (s.fail .range)) ∧
      (s.operands.arg1.toNat = ws.length → s.operands.arg3.toNat + s.operands.arg2.toNat ≤ Config.nmax →
        exec .rsSynd s = .next (s.fail .range)))

/-! ### Frames -/

/-- R24, R26: the GF commands (but GF_CFG) and the POLY queries write RESULT and the status bits, nothing else: every polynomial
register, the field, the cache and every byte of the codeword buffer stay. -/
def Obligations.ScalarCommandFrame : Prop :=
  ∀ (s t : State) (r : PReg),
    ∀ i ∈ [Instr.gfAdd, .gfMul, .gfDiv, .gfInv, .gfExp, .gfLog, .polyCoef r, .polyDeg r, .polyIszero r, .polyEval r],
      exec i s = .next t →
        t.polys = s.polys ∧ t.field = s.field ∧ t.fieldValid = s.fieldValid ∧ t.cache = s.cache ∧ SameMemory s.cw t.cw ∧
        t.latch = none ∧ KeepsHostSide s t ∧ (t.err = true → t.result = s.result)

/-- R24, R26: the commands that write polynomial registers write only the ones they name: RD, and RE for POLY_DIV; RESULT, the field
and every byte of the codeword buffer stay, and the cache too but for RS_GEN, which only extends it (R39). -/
def Obligations.PolynomialCommandFrame : Prop :=
  ∀ (s t : State) (rd re rs1 rs2 : PReg),
    ∀ i ∈ [Instr.polyLoad rd, .polyAdd rd rs1 rs2, .polyMul rd rs1 rs2, .polyMulmono rd rs1, .polyDiv rd re rs1 rs2,
           .rsGen rd],
      exec i s = .next t →
        (∀ j : PReg, j ≠ rd → (j ≠ re ∨ i ≠ .polyDiv rd re rs1 rs2) → t.polys[j] = s.polys[j]) ∧
        t.result = s.result ∧ t.field = s.field ∧ t.fieldValid = s.fieldValid ∧ s.cache <+: t.cache ∧
        (i ≠ .rsGen rd → t.cache = s.cache) ∧ SameMemory s.cw t.cw ∧ t.latch = none ∧ KeepsHostSide s t

/-- R24, R26, R76: POLY_STORE, RS_ENCODE and RS_SYND store only into their write range; a failing one stores nothing. Every polynomial
register and the field stay, RESULT too for RS_ENCODE, and the cache but for RS_ENCODE, which only extends it. -/
def Obligations.BufferCommandFrame : Prop :=
  ∀ (s t : State) (rs1 : PReg), s.Inv →
    ∀ i ∈ [Instr.polyStore rs1, .rsEncode, .rsSynd], exec i s = .next t →
      SameOutside (writeRange i s) s.cw t.cw ∧ (t.err = true → SameMemory s.cw t.cw) ∧
      t.polys = s.polys ∧ t.field = s.field ∧ t.fieldValid = s.fieldValid ∧ s.cache <+: t.cache ∧
      (i ≠ .rsEncode → t.cache = s.cache) ∧ (i = .rsEncode → t.result = s.result) ∧ t.latch = none ∧ KeepsHostSide s t
end

