-- ==== Sys2Proof/Laws/State.lean ====
section
/-!
SUPPORT. One lemma per field per update of State, so that no proof unfolds a record update.
-/

namespace Sys2Proof.Machine

/-! ### State.accept -/

@[simp] theorem State.accept_polys (s : State) (w : Word) : (s.accept w).polys = s.polys := rfl
@[simp] theorem State.accept_regs (s : State) (w : Word) : (s.accept w).regs = s.regs := rfl
@[simp] theorem State.accept_result (s : State) (w : Word) : (s.accept w).result = s.result := rfl
@[simp] theorem State.accept_err (s : State) (w : Word) : (s.accept w).err = false := rfl
@[simp] theorem State.accept_errCode (s : State) (w : Word) : (s.accept w).errCode = .noError := rfl
@[simp] theorem State.accept_fieldValid (s : State) (w : Word) : (s.accept w).fieldValid = s.fieldValid := rfl
@[simp] theorem State.accept_overrun (s : State) (w : Word) : (s.accept w).overrun = s.overrun := rfl
@[simp] theorem State.accept_field (s : State) (w : Word) : (s.accept w).field = s.field := rfl
@[simp] theorem State.accept_cache (s : State) (w : Word) : (s.accept w).cache = s.cache := rfl
@[simp] theorem State.accept_cw (s : State) (w : Word) : (s.accept w).cw = s.cw := rfl
@[simp] theorem State.accept_latch (s : State) (w : Word) : (s.accept w).latch = some { word := w, args := s.regs } := rfl
@[simp] theorem State.accept_pending (s : State) (w : Word) : (s.accept w).pending = s.pending := rfl
@[simp] theorem State.accept_responses (s : State) (w : Word) : (s.accept w).responses = s.responses := rfl
@[simp] theorem State.accept_draws (s : State) (w : Word) : (s.accept w).draws = s.draws := rfl
@[simp] theorem State.accept_busy (s : State) (w : Word) : (s.accept w).busy = true := rfl
@[simp] theorem State.accept_operands (s : State) (w : Word) : (s.accept w).operands = s.regs := rfl

/-! ### State.complete -/

@[simp] theorem State.complete_polys (s : State) : (s.complete).polys = s.polys := rfl
@[simp] theorem State.complete_regs (s : State) : (s.complete).regs = s.regs := rfl
@[simp] theorem State.complete_result (s : State) : (s.complete).result = s.result := rfl
@[simp] theorem State.complete_err (s : State) : (s.complete).err = false := rfl
@[simp] theorem State.complete_errCode (s : State) : (s.complete).errCode = .noError := rfl
@[simp] theorem State.complete_fieldValid (s : State) : (s.complete).fieldValid = s.fieldValid := rfl
@[simp] theorem State.complete_overrun (s : State) : (s.complete).overrun = s.overrun := rfl
@[simp] theorem State.complete_field (s : State) : (s.complete).field = s.field := rfl
@[simp] theorem State.complete_cache (s : State) : (s.complete).cache = s.cache := rfl
@[simp] theorem State.complete_cw (s : State) : (s.complete).cw = s.cw := rfl
@[simp] theorem State.complete_latch (s : State) : (s.complete).latch = none := rfl
@[simp] theorem State.complete_pending (s : State) : (s.complete).pending = s.pending := rfl
@[simp] theorem State.complete_responses (s : State) : (s.complete).responses = s.responses := rfl
@[simp] theorem State.complete_draws (s : State) : (s.complete).draws = s.draws := rfl
@[simp] theorem State.complete_busy (s : State) : (s.complete).busy = false := rfl

/-! ### State.fail -/

@[simp] theorem State.fail_polys (s : State) (e : ErrCode) : (s.fail e).polys = s.polys := rfl
@[simp] theorem State.fail_regs (s : State) (e : ErrCode) : (s.fail e).regs = s.regs := rfl
@[simp] theorem State.fail_result (s : State) (e : ErrCode) : (s.fail e).result = s.result := rfl
@[simp] theorem State.fail_err (s : State) (e : ErrCode) : (s.fail e).err = true := rfl
@[simp] theorem State.fail_errCode (s : State) (e : ErrCode) : (s.fail e).errCode = e := rfl
@[simp] theorem State.fail_fieldValid (s : State) (e : ErrCode) : (s.fail e).fieldValid = s.fieldValid := rfl
@[simp] theorem State.fail_overrun (s : State) (e : ErrCode) : (s.fail e).overrun = s.overrun := rfl
@[simp] theorem State.fail_field (s : State) (e : ErrCode) : (s.fail e).field = s.field := rfl
@[simp] theorem State.fail_cache (s : State) (e : ErrCode) : (s.fail e).cache = s.cache := rfl
@[simp] theorem State.fail_cw (s : State) (e : ErrCode) : (s.fail e).cw = s.cw := rfl
@[simp] theorem State.fail_latch (s : State) (e : ErrCode) : (s.fail e).latch = none := rfl
@[simp] theorem State.fail_pending (s : State) (e : ErrCode) : (s.fail e).pending = s.pending := rfl
@[simp] theorem State.fail_responses (s : State) (e : ErrCode) : (s.fail e).responses = s.responses := rfl
@[simp] theorem State.fail_draws (s : State) (e : ErrCode) : (s.fail e).draws = s.draws := rfl
@[simp] theorem State.fail_busy (s : State) (e : ErrCode) : (s.fail e).busy = false := rfl

/-! ### State.setOverrun -/

@[simp] theorem State.setOverrun_polys (s : State) : (s.setOverrun).polys = s.polys := rfl
@[simp] theorem State.setOverrun_regs (s : State) : (s.setOverrun).regs = s.regs := rfl
@[simp] theorem State.setOverrun_result (s : State) : (s.setOverrun).result = s.result := rfl
@[simp] theorem State.setOverrun_err (s : State) : (s.setOverrun).err = s.err := rfl
@[simp] theorem State.setOverrun_errCode (s : State) : (s.setOverrun).errCode = s.errCode := rfl
@[simp] theorem State.setOverrun_fieldValid (s : State) : (s.setOverrun).fieldValid = s.fieldValid := rfl
@[simp] theorem State.setOverrun_overrun (s : State) : (s.setOverrun).overrun = true := rfl
@[simp] theorem State.setOverrun_field (s : State) : (s.setOverrun).field = s.field := rfl
@[simp] theorem State.setOverrun_cache (s : State) : (s.setOverrun).cache = s.cache := rfl
@[simp] theorem State.setOverrun_cw (s : State) : (s.setOverrun).cw = s.cw := rfl
@[simp] theorem State.setOverrun_latch (s : State) : (s.setOverrun).latch = s.latch := rfl
@[simp] theorem State.setOverrun_pending (s : State) : (s.setOverrun).pending = s.pending := rfl
@[simp] theorem State.setOverrun_responses (s : State) : (s.setOverrun).responses = s.responses := rfl
@[simp] theorem State.setOverrun_draws (s : State) : (s.setOverrun).draws = s.draws := rfl
@[simp] theorem State.setOverrun_busy (s : State) : (s.setOverrun).busy = s.busy := rfl
@[simp] theorem State.setOverrun_operands (s : State) : (s.setOverrun).operands = s.operands := rfl

/-! ### State.clearOverrun -/

@[simp] theorem State.clearOverrun_polys (s : State) : (s.clearOverrun).polys = s.polys := rfl
@[simp] theorem State.clearOverrun_regs (s : State) : (s.clearOverrun).regs = s.regs := rfl
@[simp] theorem State.clearOverrun_result (s : State) : (s.clearOverrun).result = s.result := rfl
@[simp] theorem State.clearOverrun_err (s : State) : (s.clearOverrun).err = s.err := rfl
@[simp] theorem State.clearOverrun_errCode (s : State) : (s.clearOverrun).errCode = s.errCode := rfl
@[simp] theorem State.clearOverrun_fieldValid (s : State) : (s.clearOverrun).fieldValid = s.fieldValid := rfl
@[simp] theorem State.clearOverrun_overrun (s : State) : (s.clearOverrun).overrun = false := rfl
@[simp] theorem State.clearOverrun_field (s : State) : (s.clearOverrun).field = s.field := rfl
@[simp] theorem State.clearOverrun_cache (s : State) : (s.clearOverrun).cache = s.cache := rfl
@[simp] theorem State.clearOverrun_cw (s : State) : (s.clearOverrun).cw = s.cw := rfl
@[simp] theorem State.clearOverrun_latch (s : State) : (s.clearOverrun).latch = s.latch := rfl
@[simp] theorem State.clearOverrun_pending (s : State) : (s.clearOverrun).pending = s.pending := rfl
@[simp] theorem State.clearOverrun_responses (s : State) : (s.clearOverrun).responses = s.responses := rfl
@[simp] theorem State.clearOverrun_draws (s : State) : (s.clearOverrun).draws = s.draws := rfl
@[simp] theorem State.clearOverrun_busy (s : State) : (s.clearOverrun).busy = s.busy := rfl
@[simp] theorem State.clearOverrun_operands (s : State) : (s.clearOverrun).operands = s.operands := rfl

/-! ### State.setResult -/

@[simp] theorem State.setResult_polys (s : State) (v : Word) : (s.setResult v).polys = s.polys := rfl
@[simp] theorem State.setResult_regs (s : State) (v : Word) : (s.setResult v).regs = s.regs := rfl
@[simp] theorem State.setResult_result (s : State) (v : Word) : (s.setResult v).result = v := rfl
@[simp] theorem State.setResult_err (s : State) (v : Word) : (s.setResult v).err = s.err := rfl
@[simp] theorem State.setResult_errCode (s : State) (v : Word) : (s.setResult v).errCode = s.errCode := rfl
@[simp] theorem State.setResult_fieldValid (s : State) (v : Word) : (s.setResult v).fieldValid = s.fieldValid := rfl
@[simp] theorem State.setResult_overrun (s : State) (v : Word) : (s.setResult v).overrun = s.overrun := rfl
@[simp] theorem State.setResult_field (s : State) (v : Word) : (s.setResult v).field = s.field := rfl
@[simp] theorem State.setResult_cache (s : State) (v : Word) : (s.setResult v).cache = s.cache := rfl
@[simp] theorem State.setResult_cw (s : State) (v : Word) : (s.setResult v).cw = s.cw := rfl
@[simp] theorem State.setResult_latch (s : State) (v : Word) : (s.setResult v).latch = s.latch := rfl
@[simp] theorem State.setResult_pending (s : State) (v : Word) : (s.setResult v).pending = s.pending := rfl
@[simp] theorem State.setResult_responses (s : State) (v : Word) : (s.setResult v).responses = s.responses := rfl
@[simp] theorem State.setResult_draws (s : State) (v : Word) : (s.setResult v).draws = s.draws := rfl
@[simp] theorem State.setResult_busy (s : State) (v : Word) : (s.setResult v).busy = s.busy := rfl
@[simp] theorem State.setResult_operands (s : State) (v : Word) : (s.setResult v).operands = s.operands := rfl

/-! ### State.setPoly -/

@[simp] theorem State.setPoly_polys (s : State) (i : PReg) (p : PolyVal) : (s.setPoly i p).polys = s.polys.set i.val (some p) i.isLt := rfl
@[simp] theorem State.setPoly_regs (s : State) (i : PReg) (p : PolyVal) : (s.setPoly i p).regs = s.regs := rfl
@[simp] theorem State.setPoly_result (s : State) (i : PReg) (p : PolyVal) : (s.setPoly i p).result = s.result := rfl
@[simp] theorem State.setPoly_err (s : State) (i : PReg) (p : PolyVal) : (s.setPoly i p).err = s.err := rfl
@[simp] theorem State.setPoly_errCode (s : State) (i : PReg) (p : PolyVal) : (s.setPoly i p).errCode = s.errCode := rfl
@[simp] theorem State.setPoly_fieldValid (s : State) (i : PReg) (p : PolyVal) : (s.setPoly i p).fieldValid = s.fieldValid := rfl
@[simp] theorem State.setPoly_overrun (s : State) (i : PReg) (p : PolyVal) : (s.setPoly i p).overrun = s.overrun := rfl
@[simp] theorem State.setPoly_field (s : State) (i : PReg) (p : PolyVal) : (s.setPoly i p).field = s.field := rfl
@[simp] theorem State.setPoly_cache (s : State) (i : PReg) (p : PolyVal) : (s.setPoly i p).cache = s.cache := rfl
@[simp] theorem State.setPoly_cw (s : State) (i : PReg) (p : PolyVal) : (s.setPoly i p).cw = s.cw := rfl
@[simp] theorem State.setPoly_latch (s : State) (i : PReg) (p : PolyVal) : (s.setPoly i p).latch = s.latch := rfl
@[simp] theorem State.setPoly_pending (s : State) (i : PReg) (p : PolyVal) : (s.setPoly i p).pending = s.pending := rfl
@[simp] theorem State.setPoly_responses (s : State) (i : PReg) (p : PolyVal) : (s.setPoly i p).responses = s.responses := rfl
@[simp] theorem State.setPoly_draws (s : State) (i : PReg) (p : PolyVal) : (s.setPoly i p).draws = s.draws := rfl
@[simp] theorem State.setPoly_busy (s : State) (i : PReg) (p : PolyVal) : (s.setPoly i p).busy = s.busy := rfl
@[simp] theorem State.setPoly_operands (s : State) (i : PReg) (p : PolyVal) : (s.setPoly i p).operands = s.operands := rfl

/-! ### State.clearPolys -/

@[simp] theorem State.clearPolys_polys (s : State) : (s.clearPolys).polys = Vector.replicate 8 none := rfl
@[simp] theorem State.clearPolys_regs (s : State) : (s.clearPolys).regs = s.regs := rfl
@[simp] theorem State.clearPolys_result (s : State) : (s.clearPolys).result = s.result := rfl
@[simp] theorem State.clearPolys_err (s : State) : (s.clearPolys).err = s.err := rfl
@[simp] theorem State.clearPolys_errCode (s : State) : (s.clearPolys).errCode = s.errCode := rfl
@[simp] theorem State.clearPolys_fieldValid (s : State) : (s.clearPolys).fieldValid = s.fieldValid := rfl
@[simp] theorem State.clearPolys_overrun (s : State) : (s.clearPolys).overrun = s.overrun := rfl
@[simp] theorem State.clearPolys_field (s : State) : (s.clearPolys).field = s.field := rfl
@[simp] theorem State.clearPolys_cache (s : State) : (s.clearPolys).cache = s.cache := rfl
@[simp] theorem State.clearPolys_cw (s : State) : (s.clearPolys).cw = s.cw := rfl
@[simp] theorem State.clearPolys_latch (s : State) : (s.clearPolys).latch = s.latch := rfl
@[simp] theorem State.clearPolys_pending (s : State) : (s.clearPolys).pending = s.pending := rfl
@[simp] theorem State.clearPolys_responses (s : State) : (s.clearPolys).responses = s.responses := rfl
@[simp] theorem State.clearPolys_draws (s : State) : (s.clearPolys).draws = s.draws := rfl
@[simp] theorem State.clearPolys_busy (s : State) : (s.clearPolys).busy = s.busy := rfl
@[simp] theorem State.clearPolys_operands (s : State) : (s.clearPolys).operands = s.operands := rfl

/-! ### State.setCache -/

@[simp] theorem State.setCache_polys (s : State) (c : List PolyVal) : (s.setCache c).polys = s.polys := rfl
@[simp] theorem State.setCache_regs (s : State) (c : List PolyVal) : (s.setCache c).regs = s.regs := rfl
@[simp] theorem State.setCache_result (s : State) (c : List PolyVal) : (s.setCache c).result = s.result := rfl
@[simp] theorem State.setCache_err (s : State) (c : List PolyVal) : (s.setCache c).err = s.err := rfl
@[simp] theorem State.setCache_errCode (s : State) (c : List PolyVal) : (s.setCache c).errCode = s.errCode := rfl
@[simp] theorem State.setCache_fieldValid (s : State) (c : List PolyVal) : (s.setCache c).fieldValid = s.fieldValid := rfl
@[simp] theorem State.setCache_overrun (s : State) (c : List PolyVal) : (s.setCache c).overrun = s.overrun := rfl
@[simp] theorem State.setCache_field (s : State) (c : List PolyVal) : (s.setCache c).field = s.field := rfl
@[simp] theorem State.setCache_cache (s : State) (c : List PolyVal) : (s.setCache c).cache = c := rfl
@[simp] theorem State.setCache_cw (s : State) (c : List PolyVal) : (s.setCache c).cw = s.cw := rfl
@[simp] theorem State.setCache_latch (s : State) (c : List PolyVal) : (s.setCache c).latch = s.latch := rfl
@[simp] theorem State.setCache_pending (s : State) (c : List PolyVal) : (s.setCache c).pending = s.pending := rfl
@[simp] theorem State.setCache_responses (s : State) (c : List PolyVal) : (s.setCache c).responses = s.responses := rfl
@[simp] theorem State.setCache_draws (s : State) (c : List PolyVal) : (s.setCache c).draws = s.draws := rfl
@[simp] theorem State.setCache_busy (s : State) (c : List PolyVal) : (s.setCache c).busy = s.busy := rfl
@[simp] theorem State.setCache_operands (s : State) (c : List PolyVal) : (s.setCache c).operands = s.operands := rfl

/-! ### State.setCw -/

@[simp] theorem State.setCw_polys (s : State) (m : Memory) : (s.setCw m).polys = s.polys := rfl
@[simp] theorem State.setCw_regs (s : State) (m : Memory) : (s.setCw m).regs = s.regs := rfl
@[simp] theorem State.setCw_result (s : State) (m : Memory) : (s.setCw m).result = s.result := rfl
@[simp] theorem State.setCw_err (s : State) (m : Memory) : (s.setCw m).err = s.err := rfl
@[simp] theorem State.setCw_errCode (s : State) (m : Memory) : (s.setCw m).errCode = s.errCode := rfl
@[simp] theorem State.setCw_fieldValid (s : State) (m : Memory) : (s.setCw m).fieldValid = s.fieldValid := rfl
@[simp] theorem State.setCw_overrun (s : State) (m : Memory) : (s.setCw m).overrun = s.overrun := rfl
@[simp] theorem State.setCw_field (s : State) (m : Memory) : (s.setCw m).field = s.field := rfl
@[simp] theorem State.setCw_cache (s : State) (m : Memory) : (s.setCw m).cache = s.cache := rfl
@[simp] theorem State.setCw_cw (s : State) (m : Memory) : (s.setCw m).cw = m := rfl
@[simp] theorem State.setCw_latch (s : State) (m : Memory) : (s.setCw m).latch = s.latch := rfl
@[simp] theorem State.setCw_pending (s : State) (m : Memory) : (s.setCw m).pending = s.pending := rfl
@[simp] theorem State.setCw_responses (s : State) (m : Memory) : (s.setCw m).responses = s.responses := rfl
@[simp] theorem State.setCw_draws (s : State) (m : Memory) : (s.setCw m).draws = s.draws := rfl
@[simp] theorem State.setCw_busy (s : State) (m : Memory) : (s.setCw m).busy = s.busy := rfl
@[simp] theorem State.setCw_operands (s : State) (m : Memory) : (s.setCw m).operands = s.operands := rfl

/-! ### State.setField -/

@[simp] theorem State.setField_polys (s : State) (f : ActiveField) : (s.setField f).polys = s.polys := rfl
@[simp] theorem State.setField_regs (s : State) (f : ActiveField) : (s.setField f).regs = s.regs := rfl
@[simp] theorem State.setField_result (s : State) (f : ActiveField) : (s.setField f).result = s.result := rfl
@[simp] theorem State.setField_err (s : State) (f : ActiveField) : (s.setField f).err = s.err := rfl
@[simp] theorem State.setField_errCode (s : State) (f : ActiveField) : (s.setField f).errCode = s.errCode := rfl
@[simp] theorem State.setField_fieldValid (s : State) (f : ActiveField) : (s.setField f).fieldValid = s.fieldValid := rfl
@[simp] theorem State.setField_overrun (s : State) (f : ActiveField) : (s.setField f).overrun = s.overrun := rfl
@[simp] theorem State.setField_field (s : State) (f : ActiveField) : (s.setField f).field = f := rfl
@[simp] theorem State.setField_cache (s : State) (f : ActiveField) : (s.setField f).cache = s.cache := rfl
@[simp] theorem State.setField_cw (s : State) (f : ActiveField) : (s.setField f).cw = s.cw := rfl
@[simp] theorem State.setField_latch (s : State) (f : ActiveField) : (s.setField f).latch = s.latch := rfl
@[simp] theorem State.setField_pending (s : State) (f : ActiveField) : (s.setField f).pending = s.pending := rfl
@[simp] theorem State.setField_responses (s : State) (f : ActiveField) : (s.setField f).responses = s.responses := rfl
@[simp] theorem State.setField_draws (s : State) (f : ActiveField) : (s.setField f).draws = s.draws := rfl
@[simp] theorem State.setField_busy (s : State) (f : ActiveField) : (s.setField f).busy = s.busy := rfl
@[simp] theorem State.setField_operands (s : State) (f : ActiveField) : (s.setField f).operands = s.operands := rfl

/-! ### State.setFieldValid -/

@[simp] theorem State.setFieldValid_polys (s : State) (b : Bool) : (s.setFieldValid b).polys = s.polys := rfl
@[simp] theorem State.setFieldValid_regs (s : State) (b : Bool) : (s.setFieldValid b).regs = s.regs := rfl
@[simp] theorem State.setFieldValid_result (s : State) (b : Bool) : (s.setFieldValid b).result = s.result := rfl
@[simp] theorem State.setFieldValid_err (s : State) (b : Bool) : (s.setFieldValid b).err = s.err := rfl
@[simp] theorem State.setFieldValid_errCode (s : State) (b : Bool) : (s.setFieldValid b).errCode = s.errCode := rfl
@[simp] theorem State.setFieldValid_fieldValid (s : State) (b : Bool) : (s.setFieldValid b).fieldValid = b := rfl
@[simp] theorem State.setFieldValid_overrun (s : State) (b : Bool) : (s.setFieldValid b).overrun = s.overrun := rfl
@[simp] theorem State.setFieldValid_field (s : State) (b : Bool) : (s.setFieldValid b).field = s.field := rfl
@[simp] theorem State.setFieldValid_cache (s : State) (b : Bool) : (s.setFieldValid b).cache = s.cache := rfl
@[simp] theorem State.setFieldValid_cw (s : State) (b : Bool) : (s.setFieldValid b).cw = s.cw := rfl
@[simp] theorem State.setFieldValid_latch (s : State) (b : Bool) : (s.setFieldValid b).latch = s.latch := rfl
@[simp] theorem State.setFieldValid_pending (s : State) (b : Bool) : (s.setFieldValid b).pending = s.pending := rfl
@[simp] theorem State.setFieldValid_responses (s : State) (b : Bool) : (s.setFieldValid b).responses = s.responses := rfl
@[simp] theorem State.setFieldValid_draws (s : State) (b : Bool) : (s.setFieldValid b).draws = s.draws := rfl
@[simp] theorem State.setFieldValid_busy (s : State) (b : Bool) : (s.setFieldValid b).busy = s.busy := rfl
@[simp] theorem State.setFieldValid_operands (s : State) (b : Bool) : (s.setFieldValid b).operands = s.operands := rfl

/-! ### State.setRegs -/

@[simp] theorem State.setRegs_polys (s : State) (r : OperandRegs) : (s.setRegs r).polys = s.polys := rfl
@[simp] theorem State.setRegs_regs (s : State) (r : OperandRegs) : (s.setRegs r).regs = r := rfl
@[simp] theorem State.setRegs_result (s : State) (r : OperandRegs) : (s.setRegs r).result = s.result := rfl
@[simp] theorem State.setRegs_err (s : State) (r : OperandRegs) : (s.setRegs r).err = s.err := rfl
@[simp] theorem State.setRegs_errCode (s : State) (r : OperandRegs) : (s.setRegs r).errCode = s.errCode := rfl
@[simp] theorem State.setRegs_fieldValid (s : State) (r : OperandRegs) : (s.setRegs r).fieldValid = s.fieldValid := rfl
@[simp] theorem State.setRegs_overrun (s : State) (r : OperandRegs) : (s.setRegs r).overrun = s.overrun := rfl
@[simp] theorem State.setRegs_field (s : State) (r : OperandRegs) : (s.setRegs r).field = s.field := rfl
@[simp] theorem State.setRegs_cache (s : State) (r : OperandRegs) : (s.setRegs r).cache = s.cache := rfl
@[simp] theorem State.setRegs_cw (s : State) (r : OperandRegs) : (s.setRegs r).cw = s.cw := rfl
@[simp] theorem State.setRegs_latch (s : State) (r : OperandRegs) : (s.setRegs r).latch = s.latch := rfl
@[simp] theorem State.setRegs_pending (s : State) (r : OperandRegs) : (s.setRegs r).pending = s.pending := rfl
@[simp] theorem State.setRegs_responses (s : State) (r : OperandRegs) : (s.setRegs r).responses = s.responses := rfl
@[simp] theorem State.setRegs_draws (s : State) (r : OperandRegs) : (s.setRegs r).draws = s.draws := rfl
@[simp] theorem State.setRegs_busy (s : State) (r : OperandRegs) : (s.setRegs r).busy = s.busy := rfl

/-! ### State.advance -/

@[simp] theorem State.advance_polys (s : State) (n : Nat) : (s.advance n).polys = s.polys := rfl
@[simp] theorem State.advance_regs (s : State) (n : Nat) : (s.advance n).regs = s.regs := rfl
@[simp] theorem State.advance_result (s : State) (n : Nat) : (s.advance n).result = s.result := rfl
@[simp] theorem State.advance_err (s : State) (n : Nat) : (s.advance n).err = s.err := rfl
@[simp] theorem State.advance_errCode (s : State) (n : Nat) : (s.advance n).errCode = s.errCode := rfl
@[simp] theorem State.advance_fieldValid (s : State) (n : Nat) : (s.advance n).fieldValid = s.fieldValid := rfl
@[simp] theorem State.advance_overrun (s : State) (n : Nat) : (s.advance n).overrun = s.overrun := rfl
@[simp] theorem State.advance_field (s : State) (n : Nat) : (s.advance n).field = s.field := rfl
@[simp] theorem State.advance_cache (s : State) (n : Nat) : (s.advance n).cache = s.cache := rfl
@[simp] theorem State.advance_cw (s : State) (n : Nat) : (s.advance n).cw = s.cw := rfl
@[simp] theorem State.advance_latch (s : State) (n : Nat) : (s.advance n).latch = s.latch := rfl
@[simp] theorem State.advance_pending (s : State) (n : Nat) : (s.advance n).pending = s.pending := rfl
@[simp] theorem State.advance_responses (s : State) (n : Nat) : (s.advance n).responses = s.responses := rfl
@[simp] theorem State.advance_draws (s : State) (n : Nat) : (s.advance n).draws = s.draws + n := rfl
@[simp] theorem State.advance_busy (s : State) (n : Nat) : (s.advance n).busy = s.busy := rfl
@[simp] theorem State.advance_operands (s : State) (n : Nat) : (s.advance n).operands = s.operands := rfl

/-! ### State.respond -/

@[simp] theorem State.respond_polys (s : State) (r : Response) : (s.respond r).polys = s.polys := rfl
@[simp] theorem State.respond_regs (s : State) (r : Response) : (s.respond r).regs = s.regs := rfl
@[simp] theorem State.respond_result (s : State) (r : Response) : (s.respond r).result = s.result := rfl
@[simp] theorem State.respond_err (s : State) (r : Response) : (s.respond r).err = s.err := rfl
@[simp] theorem State.respond_errCode (s : State) (r : Response) : (s.respond r).errCode = s.errCode := rfl
@[simp] theorem State.respond_fieldValid (s : State) (r : Response) : (s.respond r).fieldValid = s.fieldValid := rfl
@[simp] theorem State.respond_overrun (s : State) (r : Response) : (s.respond r).overrun = s.overrun := rfl
@[simp] theorem State.respond_field (s : State) (r : Response) : (s.respond r).field = s.field := rfl
@[simp] theorem State.respond_cache (s : State) (r : Response) : (s.respond r).cache = s.cache := rfl
@[simp] theorem State.respond_cw (s : State) (r : Response) : (s.respond r).cw = s.cw := rfl
@[simp] theorem State.respond_latch (s : State) (r : Response) : (s.respond r).latch = s.latch := rfl
@[simp] theorem State.respond_pending (s : State) (r : Response) : (s.respond r).pending = s.pending := rfl
@[simp] theorem State.respond_responses (s : State) (r : Response) : (s.respond r).responses = r :: s.responses := rfl
@[simp] theorem State.respond_draws (s : State) (r : Response) : (s.respond r).draws = s.draws := rfl
@[simp] theorem State.respond_busy (s : State) (r : Response) : (s.respond r).busy = s.busy := rfl
@[simp] theorem State.respond_operands (s : State) (r : Response) : (s.respond r).operands = s.operands := rfl

/-! ### State.setPending -/

@[simp] theorem State.setPending_polys (s : State) (es : List Event) : (s.setPending es).polys = s.polys := rfl
@[simp] theorem State.setPending_regs (s : State) (es : List Event) : (s.setPending es).regs = s.regs := rfl
@[simp] theorem State.setPending_result (s : State) (es : List Event) : (s.setPending es).result = s.result := rfl
@[simp] theorem State.setPending_err (s : State) (es : List Event) : (s.setPending es).err = s.err := rfl
@[simp] theorem State.setPending_errCode (s : State) (es : List Event) : (s.setPending es).errCode = s.errCode := rfl
@[simp] theorem State.setPending_fieldValid (s : State) (es : List Event) : (s.setPending es).fieldValid = s.fieldValid := rfl
@[simp] theorem State.setPending_overrun (s : State) (es : List Event) : (s.setPending es).overrun = s.overrun := rfl
@[simp] theorem State.setPending_field (s : State) (es : List Event) : (s.setPending es).field = s.field := rfl
@[simp] theorem State.setPending_cache (s : State) (es : List Event) : (s.setPending es).cache = s.cache := rfl
@[simp] theorem State.setPending_cw (s : State) (es : List Event) : (s.setPending es).cw = s.cw := rfl
@[simp] theorem State.setPending_latch (s : State) (es : List Event) : (s.setPending es).latch = s.latch := rfl
@[simp] theorem State.setPending_pending (s : State) (es : List Event) : (s.setPending es).pending = es := rfl
@[simp] theorem State.setPending_responses (s : State) (es : List Event) : (s.setPending es).responses = s.responses := rfl
@[simp] theorem State.setPending_draws (s : State) (es : List Event) : (s.setPending es).draws = s.draws := rfl
@[simp] theorem State.setPending_busy (s : State) (es : List Event) : (s.setPending es).busy = s.busy := rfl
@[simp] theorem State.setPending_operands (s : State) (es : List Event) : (s.setPending es).operands = s.operands := rfl

/-! ### State.discardField -/

@[simp] theorem State.discardField_polys (s : State) : (s.discardField).polys = Vector.replicate 8 none := rfl
@[simp] theorem State.discardField_regs (s : State) : (s.discardField).regs = s.regs := rfl
@[simp] theorem State.discardField_result (s : State) : (s.discardField).result = s.result := rfl
@[simp] theorem State.discardField_err (s : State) : (s.discardField).err = s.err := rfl
@[simp] theorem State.discardField_errCode (s : State) : (s.discardField).errCode = s.errCode := rfl
@[simp] theorem State.discardField_fieldValid (s : State) : (s.discardField).fieldValid = s.fieldValid := rfl
@[simp] theorem State.discardField_overrun (s : State) : (s.discardField).overrun = s.overrun := rfl
@[simp] theorem State.discardField_field (s : State) : (s.discardField).field = s.field := rfl
@[simp] theorem State.discardField_cache (s : State) : (s.discardField).cache = cacheSeed := rfl
@[simp] theorem State.discardField_cw (s : State) : (s.discardField).cw = s.cw := rfl
@[simp] theorem State.discardField_latch (s : State) : (s.discardField).latch = s.latch := rfl
@[simp] theorem State.discardField_pending (s : State) : (s.discardField).pending = s.pending := rfl
@[simp] theorem State.discardField_responses (s : State) : (s.discardField).responses = s.responses := rfl
@[simp] theorem State.discardField_draws (s : State) : (s.discardField).draws = s.draws := rfl
@[simp] theorem State.discardField_busy (s : State) : (s.discardField).busy = s.busy := rfl
@[simp] theorem State.discardField_operands (s : State) : (s.discardField).operands = s.operands := rfl

/-! ### State.resetWith -/

@[simp] theorem State.resetWith_polys (s : State) (m : Memory) : (s.resetWith m).polys = State.reset.polys := rfl
@[simp] theorem State.resetWith_regs (s : State) (m : Memory) : (s.resetWith m).regs = State.reset.regs := rfl
@[simp] theorem State.resetWith_result (s : State) (m : Memory) : (s.resetWith m).result = State.reset.result := rfl
@[simp] theorem State.resetWith_err (s : State) (m : Memory) : (s.resetWith m).err = State.reset.err := rfl
@[simp] theorem State.resetWith_errCode (s : State) (m : Memory) : (s.resetWith m).errCode = State.reset.errCode := rfl
@[simp] theorem State.resetWith_fieldValid (s : State) (m : Memory) : (s.resetWith m).fieldValid = State.reset.fieldValid := rfl
@[simp] theorem State.resetWith_overrun (s : State) (m : Memory) : (s.resetWith m).overrun = State.reset.overrun := rfl
@[simp] theorem State.resetWith_field (s : State) (m : Memory) : (s.resetWith m).field = State.reset.field := rfl
@[simp] theorem State.resetWith_cache (s : State) (m : Memory) : (s.resetWith m).cache = State.reset.cache := rfl
@[simp] theorem State.resetWith_cw (s : State) (m : Memory) : (s.resetWith m).cw = m := rfl
@[simp] theorem State.resetWith_latch (s : State) (m : Memory) : (s.resetWith m).latch = State.reset.latch := rfl
@[simp] theorem State.resetWith_pending (s : State) (m : Memory) : (s.resetWith m).pending = s.pending := rfl
@[simp] theorem State.resetWith_responses (s : State) (m : Memory) : (s.resetWith m).responses = s.responses := rfl
@[simp] theorem State.resetWith_draws (s : State) (m : Memory) : (s.resetWith m).draws = s.draws := rfl
@[simp] theorem State.resetWith_busy (s : State) (m : Memory) : (s.resetWith m).busy = false := rfl

/-! ### Polynomial registers -/

@[simp] theorem State.setPoly_get_same (s : State) (i : PReg) (p : PolyVal) : (s.setPoly i p).polys[i] = some p := by
  simp

theorem State.setPoly_get_other (s : State) {i j : PReg} (p : PolyVal) (h : j ≠ i) : (s.setPoly i p).polys[j] = s.polys[j] := by
  have : i.val ≠ j.val := fun e => h (Fin.ext e.symm)
  simp [this]

@[simp] theorem State.clearPolys_get (s : State) (i : PReg) : s.clearPolys.polys[i] = none := by
  simp

end Sys2Proof.Machine
end

