-- ==== Sys2Proof/Laws/Memory.lean ====
section
/-!
SUPPORT. The codeword buffer: read after write, the canonical form, and what MemRead, MemWrite and an abort's scribble do.
-/

namespace Sys2Proof.Machine

/-! ### Bytes -/

@[simp] theorem memGet_memSet_same (m : Memory) (a : Nat) (v : Byte) : memGet (memSet m a v) a = some v := by
  induction m with
  | nil => simp [memSet, memGet]
  | cons c rest ih =>
    obtain ⟨k, b⟩ := c
    unfold memSet
    split
    · simp [memGet]
    · split
      · simp [memGet]
      · have : k ≠ a := fun h => by simp_all
        simp [memGet, this, ih]

theorem memGet_memSet_other (m : Memory) {a x : Nat} (v : Byte) (h : x ≠ a) : memGet (memSet m a v) x = memGet m x := by
  induction m with
  | nil => simp [memSet, memGet, h.symm]
  | cons c rest ih =>
    obtain ⟨k, b⟩ := c
    unfold memSet
    split
    · simp [memGet, h.symm]
    · split
      · next h2 => subst h2; simp [memGet, h.symm]
      · simp [memGet, ih]

theorem mem_of_mem_memSet {m : Memory} {a : Nat} {v : Byte} {c : Host.Cell} (h : c ∈ memSet m a v) :
    c = (a, v) ∨ c ∈ m := by
  induction m with
  | nil => simpa [memSet] using h
  | cons d rest ih =>
    obtain ⟨k, b⟩ := d
    unfold memSet at h
    split at h
    · simpa using h
    · split at h
      · rcases List.mem_cons.mp h with h | h <;> simp [h]
      · rcases List.mem_cons.mp h with h | h
        · simp [h]
        · rcases ih h with h | h <;> simp [h]

theorem wf_memSet {m : Memory} (a : Nat) (v : Byte) (h : Memory.wf m = true) : Memory.wf (memSet m a v) = true := by
  induction m with
  | nil => simp [memSet, Memory.wf]
  | cons d rest ih =>
    obtain ⟨k, b⟩ := d
    simp only [Memory.wf, Bool.and_eq_true, List.all_eq_true, decide_eq_true_eq] at h
    unfold memSet
    split
    · next hlt =>
      simp only [Memory.wf, Bool.and_eq_true, List.all_eq_true, decide_eq_true_eq, List.mem_cons, forall_eq_or_imp]
      exact ⟨⟨hlt, fun c hc => hlt.trans (h.1 c hc)⟩, h.1, h.2⟩
    · split
      · next heq =>
        subst heq
        simpa [Memory.wf] using h
      · next hlt hne =>
        simp only [Memory.wf, Bool.and_eq_true, List.all_eq_true, decide_eq_true_eq]
        refine ⟨fun c hc => ?_, ih h.2⟩
        rcases mem_of_mem_memSet hc with rfl | hc
        · exact lt_of_le_of_ne (Nat.le_of_not_lt hlt) (fun e => hne e.symm)
        · exact h.1 c hc

/-! ### Entries -/

@[simp] theorem cwGet_cwSet_same (m : Memory) (a : Nat) (v : Codeword) : cwGet (cwSet m a v) a = some v := by
  have h : entryOffset a ≠ entryOffset a + 1 := by omega
  simp only [cwGet, cwSet, memGet_memSet_same, memGet_memSet_other _ _ h]
  congr 1
  apply BitVec.eq_of_getLsbD_eq
  intro i hi
  simp only [BitVec.getLsbD_append, BitVec.getLsbD_extractLsb']
  split <;> simp_all
  omega

theorem cwGet_cwSet_other (m : Memory) {a b : Nat} (v : Codeword) (h : b ≠ a) : cwGet (cwSet m a v) b = cwGet m b := by
  simp only [cwGet, cwSet]
  rw [memGet_memSet_other, memGet_memSet_other, memGet_memSet_other, memGet_memSet_other] <;>
    simp only [entryOffset] <;> omega

theorem memGet_cwSet_other (m : Memory) {a x : Nat} (v : Codeword) (h₀ : x ≠ entryOffset a) (h₁ : x ≠ entryOffset a + 1) :
    memGet (cwSet m a v) x = memGet m x := by
  rw [cwSet, memGet_memSet_other _ _ h₁, memGet_memSet_other _ _ h₀]

theorem wf_cwSet {m : Memory} (a : Nat) (v : Codeword) (h : Memory.wf m = true) : Memory.wf (cwSet m a v) = true :=
  wf_memSet _ _ (wf_memSet _ _ h)

/-! ### MemWrite and the scribble of an abort -/

theorem wf_memWrite {m : Memory} (a : Nat) (vs : List Codeword) (h : Memory.wf m = true) :
    Memory.wf (memWrite m a vs) = true := by
  induction vs generalizing m a with
  | nil => exact h
  | cons v vs ih => exact ih _ (wf_cwSet a v h)

theorem wf_memScribble {m : Memory} (a draw n : Nat) (h : Memory.wf m = true) :
    Memory.wf (memScribble m a draw n) = true := by
  induction n generalizing m a draw with
  | zero => exact h
  | succ n ih => exact ih _ _ (wf_cwSet a _ h)

theorem cwGet_memWrite_before (m : Memory) {a b : Nat} (vs : List Codeword) (h : b < a) :
    cwGet (memWrite m a vs) b = cwGet m b := by
  induction vs generalizing m a with
  | nil => rfl
  | cons v vs ih => rw [memWrite, ih _ (by omega), cwGet_cwSet_other _ _ (by omega)]

/-- What MemWrite leaves: the k-th value at entry a + k, every other entry as it was. -/
theorem cwGet_memWrite (m : Memory) (a b : Nat) (vs : List Codeword) :
    cwGet (memWrite m a vs) b = if a ≤ b ∧ b < a + vs.length then vs[b - a]? else cwGet m b := by
  induction vs generalizing m a with
  | nil => simp [memWrite]
  | cons v vs ih =>
    by_cases hab : b = a
    · subst hab
      rw [memWrite, cwGet_memWrite_before _ _ (by omega)]
      simp
    · rw [memWrite, ih, cwGet_cwSet_other _ _ hab]
      by_cases h : a + 1 ≤ b
      · have e : b - a = (b - (a + 1)) + 1 := by omega
        simp only [List.length_cons, e, List.getElem?_cons_succ]
        congr 1
        simp only [eq_iff_iff]
        omega
      · rw [if_neg (by omega), if_neg (by omega)]

/-- MemWrite leaves every byte outside the entries it writes. -/
theorem memWrite_sameOutside (m : Memory) (a : Nat) (vs : List Codeword) :
    SameOutside { start := a, count := vs.length } m (memWrite m a vs) := by
  intro x hx
  induction vs generalizing m a with
  | nil => rfl
  | cons v vs ih =>
    rw [memWrite, ih]
    · apply memGet_cwSet_other <;> intro e <;> exact hx ⟨a, le_refl a, by simp, by simp [e]⟩
    · rintro ⟨b, h1, h2, h3⟩
      simp only at h1 h2
      exact hx ⟨b, by simp only; omega, by simp only [List.length_cons]; omega, h3⟩

theorem cwGet_memScribble_outside (m : Memory) {a b : Nat} (draw n : Nat) (h : b < a ∨ a + n ≤ b) :
    cwGet (memScribble m a draw n) b = cwGet m b := by
  induction n generalizing m a draw with
  | zero => rfl
  | succ n ih => rw [memScribble, ih _ _ (by omega), cwGet_cwSet_other _ _ (by omega)]

/-! ### MemRead -/

/-- MemRead answers a list exactly when every entry of the range holds a value, and then the values in order. -/
theorem memRead_ok_iff (m : Memory) (a n : Nat) (vs : List Codeword) :
    memRead m a n = .ok vs ↔ vs.length = n ∧ ∀ k, k < n → cwGet m (a + k) = vs[k]? := by
  induction n generalizing a vs with
  | zero =>
    simp only [memRead, Except.ok.injEq, List.length_eq_zero_iff]
    exact ⟨fun h => ⟨h.symm, by simp⟩, fun h => h.1.symm⟩
  | succ n ih =>
    simp only [memRead, cwRead]
    cases hc : cwGet m a with
    | none =>
      simp only [bind, Except.bind, reduceCtorEq, false_iff, not_and]
      intro hl h
      have := h 0 (by omega)
      cases vs with
      | nil => simp at hl
      | cons v vs => simp [hc] at this
    | some v =>
      simp only [bind, Except.bind]
      cases hr : memRead m (a + 1) n with
      | error e =>
        simp only [reduceCtorEq, false_iff, not_and]
        intro hl h
        cases vs with
        | nil => simp at hl
        | cons w ws =>
          have : memRead m (a + 1) n = .ok ws := by
            rw [ih]
            refine ⟨by simpa using hl, fun k hk => ?_⟩
            have := h (k + 1) (by omega)
            rw [show a + 1 + k = a + (k + 1) by omega, this]
            simp
          simp [hr] at this
      | ok us =>
        obtain ⟨hl, hu⟩ := (ih (a + 1) us).mp hr
        constructor
        · rintro ⟨rfl⟩
          refine ⟨by simp [hl], fun k hk => ?_⟩
          cases k with
          | zero => simpa using hc
          | succ k =>
            rw [show a + (k + 1) = a + 1 + k by omega, hu k (by omega)]
            simp
        · rintro ⟨hl', h⟩
          cases vs with
          | nil => simp at hl'
          | cons w ws =>
            have h0 := h 0 (by omega)
            simp [hc] at h0
            have : memRead m (a + 1) n = .ok ws := by
              rw [ih]
              refine ⟨by simpa using hl', fun k hk => ?_⟩
              have := h (k + 1) (by omega)
              rw [show a + 1 + k = a + (k + 1) by omega, this]
              simp
            rw [hr] at this
            cases this
            rw [h0]

/-- MemRead fails only by the fault of an entry of the range that holds no value (R233). -/
theorem memRead_error {m : Memory} {a n : Nat} {e : Stop} (h : memRead m a n = .error e) :
    ∃ k, k < n ∧ cwGet m (a + k) = none ∧ e = .fault (.unwrittenCodeword (a + k)) := by
  induction n generalizing a e with
  | zero => simp [memRead] at h
  | succ n ih =>
    simp only [memRead, cwRead] at h
    cases hc : cwGet m a with
    | none =>
      simp only [hc, bind, Except.bind, Except.error.injEq] at h
      exact ⟨0, by omega, by simpa using hc, by simp [← h]⟩
    | some v =>
      simp only [hc, bind, Except.bind] at h
      cases hr : memRead m (a + 1) n with
      | ok us => simp [hr] at h
      | error e' =>
        simp only [hr, Except.error.injEq] at h
        obtain ⟨k, hk, hn, he⟩ := ih hr
        refine ⟨k + 1, by omega, ?_, ?_⟩
        · rw [← hn]; congr 1; omega
        · rw [← h, he]; congr 2; omega

end Sys2Proof.Machine
end

