-- ==== Sys2Proof/Laws/Flow.lean ====
section
/-!
SUPPORT. How a command's pseudocode flows: what each check and each shared operation of Ops and Operands can answer.
-/

namespace Sys2Proof.Machine

/-! ### Ends of a command -/

@[simp] theorem finish_ok (s t : State) : finish s (.ok t) = .next t.complete := rfl
@[simp] theorem finish_error (s : State) (e : ErrCode) : finish s (.error (.error e)) = .next (s.fail e) := rfl
@[simp] theorem finish_fault (s : State) (f : Fault) : finish s (.error (.fault f)) = .fault f := rfl

/-- A command that answers a next state has completed, or has failed with an error from the state it started in. -/
theorem finish_next {s t : State} {r : Except Stop State} (h : finish s r = .next t) :
    (∃ u, r = .ok u ∧ t = u.complete) ∨ (∃ e, r = .error (.error e) ∧ t = s.fail e) := by
  rcases r with (e | f) | u
  · exact .inr ⟨e, rfl, by simpa using h.symm⟩
  · simp at h
  · exact .inl ⟨u, rfl, by simpa using h.symm⟩

theorem finish_eq_fault {s : State} {r : Except Stop State} {f : Fault} (h : finish s r = .fault f) :
    r = .error (.fault f) := by
  rcases r with (e | g) | u <;> simp at h ⊢
  exact h

theorem finish_ne_refused (s : State) (r : Except Stop State) (x : Refusal) : finish s r ≠ .refused x := by
  rcases r with (e | g) | u <;> simp

/-! ### Sequencing -/

@[simp] theorem bind_okay {α β : Type} (a : α) (k : α → Except Stop β) : (Except.ok a >>= k) = k a := rfl
@[simp] theorem bind_stop {α β : Type} (e : Stop) (k : α → Except Stop β) :
    ((Except.error e : Except Stop α) >>= k) = .error e := rfl

/-- A sequence that ends well has ended each part well. -/
theorem bind_eq_ok {α β : Type} {x : Except Stop α} {k : α → Except Stop β} {b : β} (h : (x >>= k) = .ok b) :
    ∃ a, x = .ok a ∧ k a = .ok b := by
  cases x with
  | error e => simp at h
  | ok a => exact ⟨a, rfl, h⟩

/-- A sequence that stops has stopped in its first part, or after it. -/
theorem bind_eq_error {α β : Type} {x : Except Stop α} {k : α → Except Stop β} {e : Stop} (h : (x >>= k) = .error e) :
    x = .error e ∨ ∃ a, x = .ok a ∧ k a = .error e := by
  cases x with
  | error e' => exact .inl (by simpa using h)
  | ok a => exact .inr ⟨a, rfl, h⟩

@[simp] theorem raise_eq {α : Type} (e : ErrCode) : (raise e : Except Stop α) = .error (.error e) := rfl
@[simp] theorem raiseIf_pos {c : Prop} [Decidable c] (h : c) (e : ErrCode) : raiseIf c e = .error (.error e) := by
  simp [raiseIf, h]

@[simp] theorem raiseIf_neg {c : Prop} [Decidable c] (h : ¬ c) (e : ErrCode) : raiseIf c e = .ok () := by
  simp [raiseIf, h]

theorem raiseIf_cases (c : Prop) [Decidable c] (e : ErrCode) :
    (¬ c ∧ raiseIf c e = .ok ()) ∨ (c ∧ raiseIf c e = .error (.error e)) := by
  by_cases h : c
  · exact .inr ⟨h, raiseIf_pos h e⟩
  · exact .inl ⟨h, raiseIf_neg h e⟩

/-! ### Checks: what each can answer -/

theorem requireField_valid {s : State} (h : s.fieldValid = true) : requireField s = .ok () :=
  raiseIf_neg (by simp [h]) _

theorem requireField_invalid {s : State} (h : s.fieldValid = false) : requireField s = .error (.error .noField) :=
  raiseIf_pos h _

theorem requireField_cases (s : State) :
    (s.fieldValid = true ∧ requireField s = .ok ()) ∨
    (s.fieldValid = false ∧ requireField s = .error (.error .noField)) := by
  cases h : s.fieldValid
  · exact .inr ⟨rfl, requireField_invalid h⟩
  · exact .inl ⟨rfl, requireField_valid h⟩

theorem requireRange_fits {a n : Nat} (h : a + n ≤ Config.nmax) : requireRange a n = .ok () :=
  raiseIf_neg (Nat.not_lt.mpr h) _

theorem requireRange_exceeds {a n : Nat} (h : Config.nmax < a + n) : requireRange a n = .error (.error .capacity) :=
  raiseIf_pos h _

theorem requireRange_cases (a n : Nat) :
    (a + n ≤ Config.nmax ∧ requireRange a n = .ok ()) ∨
    (Config.nmax < a + n ∧ requireRange a n = .error (.error .capacity)) := by
  rcases Nat.lt_or_ge Config.nmax (a + n) with h | h
  · exact .inr ⟨h, requireRange_exceeds h⟩
  · exact .inl ⟨h, requireRange_fits h⟩

theorem sourcePoly_some {s : State} {i : PReg} {p : PolyVal} (h : s.polys[i] = some p) : sourcePoly s i = .ok p := by
  unfold sourcePoly; rw [h]

theorem sourcePoly_none {s : State} {i : PReg} (h : s.polys[i] = none) : sourcePoly s i = .error (.error .uninit) := by
  unfold sourcePoly; rw [h]; rfl

theorem sourcePoly_cases (s : State) (i : PReg) :
    (∃ p, s.polys[i] = some p ∧ sourcePoly s i = .ok p) ∨
    (s.polys[i] = none ∧ sourcePoly s i = .error (.error .uninit)) := by
  cases h : s.polys[i] with
  | none => exact .inr ⟨rfl, sourcePoly_none h⟩
  | some p => exact .inl ⟨p, rfl, sourcePoly_some h⟩

theorem elemOperand_below {f : ActiveField} {v : Word} (h : v.toNat < f.size) : elemOperand f v = .ok (v.setWidth 12) := by
  simp [elemOperand, h]

theorem elemOperand_above {f : ActiveField} {v : Word} (h : f.size ≤ v.toNat) :
    elemOperand f v = .error (.error .range) := by
  simp [elemOperand, Nat.not_lt.mpr h]

theorem elemOperand_cases (f : ActiveField) (v : Word) :
    (v.toNat < f.size ∧ elemOperand f v = .ok (v.setWidth 12)) ∨
    (f.size ≤ v.toNat ∧ elemOperand f v = .error (.error .range)) := by
  rcases Nat.lt_or_ge v.toNat f.size with h | h
  · exact .inl ⟨h, elemOperand_below h⟩
  · exact .inr ⟨h, elemOperand_above h⟩

theorem memRead_cases (m : Memory) (a n : Nat) :
    (∃ vs, memRead m a n = .ok vs) ∨
    (∃ k, k < n ∧ cwGet m (a + k) = none ∧ memRead m a n = .error (.fault (.unwrittenCodeword (a + k)))) := by
  cases h : memRead m a n with
  | ok vs => exact .inl ⟨vs, rfl⟩
  | error e =>
    obtain ⟨k, hk, hn, rfl⟩ := memRead_error h
    exact .inr ⟨k, hk, hn, rfl⟩

/-- Codewords read as elements: all below SIZE, or E_RANGE. -/
theorem elemList_cases (f : ActiveField) (cs : List Codeword) :
    ((∀ v ∈ cs, v.toNat < f.size) ∧ elemList f cs = .ok (cs.map (fun v => v.setWidth 12))) ∨
    ((∃ v ∈ cs, f.size ≤ v.toNat) ∧ elemList f cs = .error (.error .range)) := by
  by_cases h : ∀ v ∈ cs, v.toNat < f.size
  · exact .inl ⟨h, if_pos (by simpa using h)⟩
  · have h' : ∃ v ∈ cs, f.size ≤ v.toNat := by simpa using h
    exact .inr ⟨h', if_neg (by simpa using h)⟩

/-- An element survives the buffer's 16 bits. -/
@[simp] theorem toCodeword_setWidth (x : Elem) : (toCodeword x).setWidth 12 = x := by
  apply BitVec.eq_of_toNat_eq
  simp [toCodeword]

@[simp] theorem toCodeword_toNat (x : Elem) : (toCodeword x).toNat = x.toNat := by
  have := x.isLt
  simp only [toCodeword, BitVec.toNat_setWidth]
  omega

/-- MemRead of a range that holds elements answers them. -/
theorem memRead_holds {f : ActiveField} {m : Memory} {a : Nat} {w : PolyVal} (h : HoldsElems f m a w) :
    memRead m a w.length = .ok (w.map toCodeword) := by
  rw [memRead_ok_iff]
  refine ⟨by simp, fun k hk => ?_⟩
  rw [(h k hk).1]
  simp [hk]

/-- Elements of the field pass the range check as they are. -/
theorem elemList_elems {f : ActiveField} {w : PolyVal} (h : ∀ x ∈ w, InField f x) :
    elemList f (w.map toCodeword) = .ok w := by
  rcases elemList_cases f (w.map toCodeword) with ⟨_, h2⟩ | ⟨⟨v, hv, hge⟩, _⟩
  · rw [h2]; simp [Function.comp_def]
  · obtain ⟨x, hx, rfl⟩ := List.mem_map.mp hv
    have := h x hx
    simp only [toCodeword_toNat] at hge
    omega

theorem holdsElems_inField {f : ActiveField} {m : Memory} {a : Nat} {w : PolyVal} (h : HoldsElems f m a w) :
    ∀ x ∈ w, InField f x := by
  intro x hx
  obtain ⟨k, hk, rfl⟩ := List.mem_iff_getElem.mp hx
  simpa [hk] using (h k hk).2

end Sys2Proof.Machine
end

