-- ==== Sys2Proof/Laws/Arith.lean ====
section
/-!
SUPPORT. Small facts about the tables, the field primitives and the polynomial lists: lengths, zeros and what an extension keeps.
-/

namespace Sys2Proof.Machine

/-! ### Tables -/

@[simp] theorem powersFrom_length (m : Nat) (poly : BitVec 13) (n : Nat) (x : Elem) :
    (powersFrom m poly n x).length = n := by
  induction n generalizing x with
  | zero => rfl
  | succ n ih => simp [powersFrom, ih]

/-- The i-th value of the table loop is i doublings of its start. -/
theorem powersFrom_getElem? (m : Nat) (poly : BitVec 13) (n i : Nat) (x : Elem) (h : i < n) :
    (powersFrom m poly n x)[i]? = some ((xtime m poly)^[i] x) := by
  induction n generalizing x i with
  | zero => omega
  | succ n ih =>
    cases i with
    | zero => simp [powersFrom]
    | succ i =>
      simp only [powersFrom, List.getElem?_cons_succ, Function.iterate_succ_apply]
      exact ih i _ (by omega)

@[simp] theorem powerTable_length (m : Nat) (poly : BitVec 13) : (powerTable m poly).length = 2 ^ m :=
  powersFrom_length _ _ _ _

@[simp] theorem logTable_length (m : Nat) (t : List Elem) : (logTable m t).length = 2 ^ m - 1 := by
  simp [logTable]

@[simp] theorem buildField_size (m : BitVec 4) (poly : BitVec 13) (base : BitVec 12) :
    (buildField m poly base).size = 2 ^ m.toNat := rfl

/-! ### Field primitives -/

@[simp] theorem gfMul_zero_left (f : ActiveField) (b : Elem) : gfMul f 0 b = 0 := by simp [gfMul]
@[simp] theorem gfMul_zero_right (f : ActiveField) (a : Elem) : gfMul f a 0 = 0 := by simp [gfMul]

theorem gfMul_nonzero (f : ActiveField) {a b : Elem} (ha : a ≠ 0) (hb : b ≠ 0) :
    gfMul f a b = gfExp f ((gfLog f a).toNat + (gfLog f b).toNat) := by
  rw [gfMul, if_neg (by rintro (h | h) <;> contradiction)]

/-- R102: exponents are cyclic. -/
theorem gfExp_mod (f : ActiveField) (i : Nat) : gfExp f (i % (f.size - 1)) = gfExp f i := by
  simp [gfExp]

/-! ### Polynomial lists -/

@[simp] theorem zeros_length (n : Nat) : (zeros n).length = n := by simp [zeros]

theorem normalizePoly_length_le (c : PolyVal) : (normalizePoly c).length ≤ c.length := by
  induction c using normalizePoly.induct with
  | case1 => simp [normalizePoly]
  | case2 => simp [normalizePoly]
  | case3 d rest ih => simp [normalizePoly] at ih ⊢; omega
  | case4 c d rest h => rw [normalizePoly, if_neg h]

theorem normalizePoly_ne_nil {c : PolyVal} (h : c ≠ []) : normalizePoly c ≠ [] := by
  induction c using normalizePoly.induct with
  | case1 => exact absurd rfl h
  | case2 => simp [normalizePoly]
  | case3 d rest ih => simpa [normalizePoly] using ih (by simp)
  | case4 c d rest hc => rw [normalizePoly, if_neg hc]; simp

theorem mem_of_mem_normalizePoly {c : PolyVal} {x : Elem} (h : x ∈ normalizePoly c) : x ∈ c := by
  induction c using normalizePoly.induct with
  | case1 => simp [normalizePoly] at h
  | case2 => simpa [normalizePoly] using h
  | case3 d rest ih =>
    rw [normalizePoly, if_pos rfl] at h
    exact List.mem_cons_of_mem _ (ih h)
  | case4 c d rest h' => rwa [normalizePoly, if_neg h'] at h

@[simp] theorem xorLists_length (a b : PolyVal) : (xorLists a b).length = min a.length b.length := by
  simp [xorLists]

theorem polyAdd_length_le (a b : PolyVal) : (polyAdd a b).length ≤ max a.length b.length := by
  refine (normalizePoly_length_le _).trans ?_
  simp only [xorLists_length, List.length_append, zeros_length]
  omega

theorem convolve_length (f : ActiveField) (a b : PolyVal) (hb : b ≠ []) :
    (convolve f a b).length = a.length + b.length - 1 := by
  have := List.length_pos_iff.mpr hb
  induction a with
  | nil => simp [convolve]
  | cons x rest ih =>
    simp only [convolve, xorLists_length, List.length_append, List.length_map, zeros_length, List.length_cons, ih]
    omega

@[simp] theorem syndromes_length (f : ActiveField) (w : PolyVal) (ns : Nat) : (syndromes f w ns).length = ns := by
  simp [syndromes]

/-! ### The generator cache -/

/-- An extension keeps every entry (R39: the cache "never shrinks"). -/
theorem extendCache_keeps (f : ActiveField) (n : Nat) (c : List PolyVal) : c <+: extendCache f n c := by
  induction n generalizing c with
  | zero => exact List.prefix_rfl
  | succ n ih => exact (List.prefix_append _ _).trans (ih _)

@[simp] theorem extendCache_length (f : ActiveField) (n : Nat) (c : List PolyVal) :
    (extendCache f n c).length = c.length + n := by
  induction n generalizing c with
  | zero => rfl
  | succ n ih => simp [extendCache, ih]; omega

theorem cacheFor_keeps (f : ActiveField) (c : List PolyVal) (d : Nat) : c <+: cacheFor f c d := extendCache_keeps _ _ _

theorem cacheFor_length (f : ActiveField) (c : List PolyVal) (d : Nat) :
    (cacheFor f c d).length = max c.length (d + 1) := by
  simp only [cacheFor, extendCache_length]
  omega

end Sys2Proof.Machine
end

