-- ==== Sys2Proof/Laws/PerInstr.lean ====
section
/-!
SUPPORT. The per-instruction statements LAWS.json names: the word of every command carries its opcode, and nothing outside the fields
its row uses (spec/30_encoding.md R81, R86).
-/

open Sys2Proof

/-- The word of `i` has the row's OP, and is the row's match outside the row's used fields. -/
def Sys2Proof.Laws.EncodedWord.Statement (i : Instr) : Prop :=
  fieldOp (encode i) = i.opcode.code ∧ encode i &&& ~~~ i.opcode.usedMask = i.opcode.code.setWidth 32

theorem Sys2Proof.Laws.EncodedWord.gfCfg : Sys2Proof.Laws.EncodedWord.Statement .gfCfg := by
  unfold Sys2Proof.Laws.EncodedWord.Statement; decide
theorem Sys2Proof.Laws.EncodedWord.gfAdd : Sys2Proof.Laws.EncodedWord.Statement .gfAdd := by
  unfold Sys2Proof.Laws.EncodedWord.Statement; decide
theorem Sys2Proof.Laws.EncodedWord.gfMul : Sys2Proof.Laws.EncodedWord.Statement .gfMul := by
  unfold Sys2Proof.Laws.EncodedWord.Statement; decide
theorem Sys2Proof.Laws.EncodedWord.gfDiv : Sys2Proof.Laws.EncodedWord.Statement .gfDiv := by
  unfold Sys2Proof.Laws.EncodedWord.Statement; decide
theorem Sys2Proof.Laws.EncodedWord.gfInv : Sys2Proof.Laws.EncodedWord.Statement .gfInv := by
  unfold Sys2Proof.Laws.EncodedWord.Statement; decide
theorem Sys2Proof.Laws.EncodedWord.gfExp : Sys2Proof.Laws.EncodedWord.Statement .gfExp := by
  unfold Sys2Proof.Laws.EncodedWord.Statement; decide
theorem Sys2Proof.Laws.EncodedWord.gfLog : Sys2Proof.Laws.EncodedWord.Statement .gfLog := by
  unfold Sys2Proof.Laws.EncodedWord.Statement; decide
theorem Sys2Proof.Laws.EncodedWord.polyLoad (rd : PReg) : Sys2Proof.Laws.EncodedWord.Statement (.polyLoad rd) := by
  unfold Sys2Proof.Laws.EncodedWord.Statement; revert rd; decide
theorem Sys2Proof.Laws.EncodedWord.polyStore (rs1 : PReg) : Sys2Proof.Laws.EncodedWord.Statement (.polyStore rs1) := by
  unfold Sys2Proof.Laws.EncodedWord.Statement; revert rs1; decide
theorem Sys2Proof.Laws.EncodedWord.polyAdd (rd rs1 rs2 : PReg) :
    Sys2Proof.Laws.EncodedWord.Statement (.polyAdd rd rs1 rs2) := by
  unfold Sys2Proof.Laws.EncodedWord.Statement; revert rd rs1 rs2; decide
theorem Sys2Proof.Laws.EncodedWord.polyMul (rd rs1 rs2 : PReg) :
    Sys2Proof.Laws.EncodedWord.Statement (.polyMul rd rs1 rs2) := by
  unfold Sys2Proof.Laws.EncodedWord.Statement; revert rd rs1 rs2; decide
theorem Sys2Proof.Laws.EncodedWord.polyMulmono (rd rs1 : PReg) :
    Sys2Proof.Laws.EncodedWord.Statement (.polyMulmono rd rs1) := by
  unfold Sys2Proof.Laws.EncodedWord.Statement; revert rd rs1; decide
theorem Sys2Proof.Laws.EncodedWord.polyDiv (rd re rs1 rs2 : PReg) :
    Sys2Proof.Laws.EncodedWord.Statement (.polyDiv rd re rs1 rs2) := by
  unfold Sys2Proof.Laws.EncodedWord.Statement; revert rd re rs1 rs2; decide
theorem Sys2Proof.Laws.EncodedWord.polyCoef (rs1 : PReg) : Sys2Proof.Laws.EncodedWord.Statement (.polyCoef rs1) := by
  unfold Sys2Proof.Laws.EncodedWord.Statement; revert rs1; decide
theorem Sys2Proof.Laws.EncodedWord.polyDeg (rs1 : PReg) : Sys2Proof.Laws.EncodedWord.Statement (.polyDeg rs1) := by
  unfold Sys2Proof.Laws.EncodedWord.Statement; revert rs1; decide
theorem Sys2Proof.Laws.EncodedWord.polyIszero (rs1 : PReg) : Sys2Proof.Laws.EncodedWord.Statement (.polyIszero rs1) := by
  unfold Sys2Proof.Laws.EncodedWord.Statement; revert rs1; decide
theorem Sys2Proof.Laws.EncodedWord.polyEval (rs1 : PReg) : Sys2Proof.Laws.EncodedWord.Statement (.polyEval rs1) := by
  unfold Sys2Proof.Laws.EncodedWord.Statement; revert rs1; decide
theorem Sys2Proof.Laws.EncodedWord.rsGen (rd : PReg) : Sys2Proof.Laws.EncodedWord.Statement (.rsGen rd) := by
  unfold Sys2Proof.Laws.EncodedWord.Statement; revert rd; decide
theorem Sys2Proof.Laws.EncodedWord.rsEncode : Sys2Proof.Laws.EncodedWord.Statement .rsEncode := by
  unfold Sys2Proof.Laws.EncodedWord.Statement; decide
theorem Sys2Proof.Laws.EncodedWord.rsSynd : Sys2Proof.Laws.EncodedWord.Statement .rsSynd := by
  unfold Sys2Proof.Laws.EncodedWord.Statement; decide
end

