-- ==== Sys2Proof/Laws/Turns.lean ====
section
/-!
SUPPORT. What a step can do: one inversion lemma for the step, and the cases of a window access.
-/

namespace Sys2Proof.Machine

@[simp] theorem State.advance_zero (s : State) : s.advance 0 = s := rfl

/-- A step that answers a next state: nothing to do, a command run by the sequencer (alone, or first of two), or an event of the host
(alone, or first of two). -/
theorem step_next {s t : State} (h : step s = .next t) :
    (s.latch = none ∧ s.pending = [] ∧ t = s) ∨
    (∃ l n, s.latch = some l ∧ sequencerStep (s.advance n) = .next t) ∨
    (∃ e es n, s.pending = e :: es ∧ performEvent ((s.advance n).setPending es) e = .next t) := by
  have h0 : s.advance 0 = s := rfl
  unfold step agentStep State.turn at h
  cases hl : s.latch with
  | none =>
    cases hp : s.pending with
    | nil =>
      simp only [hl, hp, Host.Outcome.next.injEq] at h
      exact .inl ⟨rfl, rfl, h.symm⟩
    | cons e es =>
      simp only [hl, hp, hostStep] at h
      exact .inr (.inr ⟨e, es, 0, rfl, by rw [h0]; exact h⟩)
  | some l =>
    right
    cases hp : s.pending with
    | nil =>
      simp only [hl, hp] at h
      exact .inl ⟨l, 0, rfl, by rw [h0]; exact h⟩
    | cons e es =>
      cases e with
      | wait =>
        simp only [hl, hp] at h
        exact .inl ⟨l, 0, rfl, by rw [h0]; exact h⟩
      | access a =>
        simp only [hl, hp] at h
        split at h
        · exact .inr ⟨_, es, 1, rfl, by simpa [hostStep, hp] using h⟩
        · exact .inl ⟨l, 1, rfl, h⟩
      | powerOnReset =>
        simp only [hl, hp] at h
        split at h
        · exact .inr ⟨_, es, 1, rfl, by simpa [hostStep, hp] using h⟩
        · exact .inl ⟨l, 1, rfl, h⟩

/-- The sequencer runs the decoded word. -/
theorem sequencerStep_legal {s : State} {l : Latch} {i : Instr} (h : s.latch = some l) (hd : decode l.word = .ok i) :
    sequencerStep s = exec i s := by
  unfold sequencerStep; rw [h]; dsimp only; rw [hd]

/-- The sequencer completes an illegal word with E_ILLEGAL. -/
theorem sequencerStep_illegal {s : State} {l : Latch} {e : DecodeError} (h : s.latch = some l)
    (hd : decode l.word = .error e) : sequencerStep s = .next (s.fail .illegal) := by
  unfold sequencerStep; rw [h]; dsimp only; rw [hd]

/-- A range cut to the buffer is empty or ends inside it, and never ends beyond the range. -/
theorem Range.inBuffer_bounds (r : Range) :
    (r.inBuffer.count = 0 ∨ r.inBuffer.start + r.inBuffer.count ≤ Config.nmax) ∧
    r.inBuffer.start = r.start ∧ r.inBuffer.count ≤ r.count := by
  refine ⟨?_, rfl, ?_⟩ <;> dsimp only [Range.inBuffer] <;> omega

/-! ### Aborts (R232) -/

theorem abortRange_idle {s : State} (h : s.latch = none) : abortRange s = { start := 0, count := 0 } := by
  unfold abortRange; rw [h]

theorem abortRange_legal {s : State} {l : Latch} {i : Instr} (h : s.latch = some l) (hd : decode l.word = .ok i) :
    abortRange s = (writeRange i s).inBuffer := by
  unfold abortRange; rw [h]; dsimp only; rw [hd]

theorem abortRange_illegal {s : State} {l : Latch} {e : DecodeError} (h : s.latch = some l)
    (hd : decode l.word = .error e) : abortRange s = { start := 0, count := 0 } := by
  unfold abortRange; rw [h]; dsimp only; rw [hd]

/-- Whatever the latch holds, the entries an abort leaves open are in the buffer. -/
theorem abortRange_bounds (s : State) : (abortRange s).count = 0 ∨ (abortRange s).start + (abortRange s).count ≤ Config.nmax := by
  cases h : s.latch with
  | none => rw [abortRange_idle h]; exact .inl rfl
  | some l =>
    cases hd : decode l.word with
    | error e => rw [abortRange_illegal h hd]; exact .inl rfl
    | ok i => rw [abortRange_legal h hd]; exact (Range.inBuffer_bounds _).1

/-- A soft reset changes no codeword outside the abort range. -/
theorem softReset_cw_outside (s : State) {a : Nat}
    (h : a < (abortRange s).start ∨ (abortRange s).start + (abortRange s).count ≤ a) :
    cwGet s.softReset.cw a = cwGet s.cw a :=
  cwGet_memScribble_outside _ _ _ h

/-- An empty abort range leaves the buffer as it is. -/
theorem softReset_cw_empty {s : State} (h : (abortRange s).count = 0) : s.softReset.cw = s.cw := by
  simp only [State.softReset, State.advance, State.resetWith, h, memScribble]

/-- A window access that answers a next state: a read that changes no state of the block, a legal write, or a refused write. -/
theorem busAccess_next {s t : State} {a : Access} (h : busAccess s a = .next t) :
    (∃ r n, t = (s.respond r).advance n) ∨
    (∃ offset v, offset < Config.windowBytes ∧ offset % 4 = 0 ∧ a = .write .word offset v ∧ t = busWrite s (locate offset) v) := by
  cases a with
  | read w offset =>
    left
    simp only [busAccess] at h
    split at h
    · simp at h
    · split at h
      · simp only [busRead] at h
        split at h
        · split at h
          · exact ⟨_, 0, by simpa using h.symm⟩
          · exact ⟨_, 1, by simpa using h.symm⟩
        · split at h
          · exact ⟨_, 0, by simpa using h.symm⟩
          · simp at h
      · exact ⟨_, 1, by simpa using h.symm⟩
  | write w offset v =>
    simp only [busAccess] at h
    split at h
    · simp at h
    · next hw =>
      split at h
      · next hl =>
        simp only [legalAccess, Bool.and_eq_true, beq_iff_eq] at hl
        exact .inr ⟨offset, v, by omega, hl.2, by rw [hl.1], by simpa using h.symm⟩
      · exact .inl ⟨_, 0, by simpa using h.symm⟩

/-- The entry a window offset names (R62). -/
theorem locate_codeword (a : Nat) : locate (0x4000 + 4 * a) = .codeword a := by
  simp [locate, Config.cwBase]

end Sys2Proof.Machine
end

