-- ==== Sys2Proof/Tests/Slice0.lean ====
section
/-!
SUPPORT. The model's own tests: the WellFormed smoke test, decoding of words written out from spec/30_encoding.md, one step per
command with results from spec/95_test_vectors.md, and for every obligation with hypotheses a concrete state that meets them.
-/

set_option Elab.async false

open Sys2Proof Sys2Proof.Machine

/-! ### Helpers: small states, and a look into an outcome -/

/-- The state an outcome leaves, if it is a next state. -/
def Test.after (o : Host.Outcome State Fault Refusal) : Option State :=
  match o with
  | .next t => some t
  | .fault _ => none
  | .refused _ => none

/-- The fault an outcome is, if it is one. -/
def Test.stop (o : Host.Outcome State Fault Refusal) : Option Fault :=
  match o with
  | .next _ => none
  | .fault f => some f
  | .refused _ => none

/-- The next state `o` leaves meets `p`. -/
def Test.holds (o : Host.Outcome State Fault Refusal) (p : State → Bool) : Bool := ((Test.after o).map p).getD false

theorem Test.next_of_holds {o : Host.Outcome State Fault Refusal} {p : State → Bool} (h : Test.holds o p = true) :
    ∃ t, o = .next t ∧ p t = true := by
  cases o with
  | next t => exact ⟨t, rfl, h⟩
  | fault f => exact absurd h (by simp [Test.holds, Test.after])
  | refused r => exact absurd h (by simp [Test.holds, Test.after])

theorem Test.fault_of_stop {o : Host.Outcome State Fault Refusal} {f : Fault} (h : Test.stop o = some f) : o = .fault f := by
  cases o with
  | next t => exact absurd h (by simp [Test.stop])
  | fault g => simpa [Test.stop] using h
  | refused r => exact absurd h (by simp [Test.stop])

/-- GF(16), POLY = 0x13, BASE = 1: the field of V-GF-10 and V-RS-11. -/
def Test.field16 : ActiveField := buildField 4 0x13 1

/-- A configured block with the given ARG0..ARG3: P0 = g_2, P1 = g_5, P2 = [0], P3 = [5, 3] (P4..P7 invalid), the cache up to g_2,
CW[0..4] = 1, 2, 3, 4, 5, CW[8] = 16 (no element of the field), CW[4090..4095] = 1, 2, 3, 4, 5, 0. -/
def Test.demo (a0 a1 a2 a3 : Word) : State :=
  { State.reset with
    polys := #v[some [1, 6, 8], some [1, 11, 4, 6, 2, 1], some [0], some [5, 3], none, none, none, none]
    regs := { arg0 := a0, arg1 := a1, arg2 := a2, arg3 := a3, fieldM := 4, fieldPoly := 0x13, fieldBase := 1 }
    result := 7
    fieldValid := true
    field := Test.field16
    cache := [[1], [1, 2], [1, 6, 8]]
    cw := memWrite (memWrite (memWrite [] 0 [1, 2, 3, 4, 5]) 8 [16]) 4090 [1, 2, 3, 4, 5, 0] }

/-- The same block running the command word `w`. -/
def Test.running (w a0 a1 a2 a3 : Word) : State := (Test.demo a0 a1 a2 a3).issued w

/-- A block with no field, its FIELD registers as given. -/
def Test.unset (m : BitVec 4) (poly : BitVec 13) (base : BitVec 12) : State :=
  { State.reset with regs := { OperandRegs.reset with fieldM := m, fieldPoly := poly, fieldBase := base } }

/-! ### Well-formedness (R86) -/

theorem test_wellFormed_refuses_one_destination : (Instr.polyDiv 1 1 0 0).wellFormed = false := by decide +kernel
theorem test_wellFormed_accepts_two_destinations : (Instr.polyDiv 4 5 3 1).wellFormed = true := by decide +kernel

/-! ### Decoding: the words of V-EN-01 to V-EN-16 -/

theorem test_decode_gfCfg : decode 0x00000010 = .ok .gfCfg := by decide +kernel
theorem test_decode_gfAdd : decode 0x00000011 = .ok .gfAdd := by decide +kernel
theorem test_decode_gfMul : decode 0x00000012 = .ok .gfMul := by decide +kernel
theorem test_decode_gfDiv : decode 0x00000013 = .ok .gfDiv := by decide +kernel
theorem test_decode_gfInv : decode 0x00000014 = .ok .gfInv := by decide +kernel
theorem test_decode_gfExp : decode 0x00000015 = .ok .gfExp := by decide +kernel
theorem test_decode_gfLog : decode 0x00000016 = .ok .gfLog := by decide +kernel
theorem test_decode_polyLoad : decode 0x00000720 = .ok (.polyLoad 7) := by decide +kernel
theorem test_decode_polyStore : decode 0x00050021 = .ok (.polyStore 5) := by decide +kernel
theorem test_decode_polyAdd : decode 0x00520622 = .ok (.polyAdd 6 2 5) := by decide +kernel
theorem test_decode_polyMul : decode 0x00100323 = .ok (.polyMul 3 0 1) := by decide +kernel
theorem test_decode_polyMulmono : decode 0x00070124 = .ok (.polyMulmono 1 7) := by decide +kernel
theorem test_decode_polyDiv : decode 0x00135425 = .ok (.polyDiv 4 5 3 1) := by decide +kernel
theorem test_decode_polyCoef : decode 0x00020026 = .ok (.polyCoef 2) := by decide +kernel
theorem test_decode_polyDeg : decode 0x00030027 = .ok (.polyDeg 3) := by decide +kernel
theorem test_decode_polyIszero : decode 0x00060028 = .ok (.polyIszero 6) := by decide +kernel
theorem test_decode_polyEval : decode 0x00010029 = .ok (.polyEval 1) := by decide +kernel
theorem test_decode_rsGen : decode 0x00000730 = .ok (.rsGen 7) := by decide +kernel
theorem test_decode_rsEncode : decode 0x00000031 = .ok .rsEncode := by decide +kernel
theorem test_decode_rsSynd : decode 0x00000032 = .ok .rsSynd := by decide +kernel

/-- V-EN-11 to V-EN-16, V-ER-03, V-ER-06, V-ER-07, V-ER-15: the words that are no command. -/
theorem test_decode_illegal :
    ([0x00000822, 0x00010020, 0x01000031, 0x00935425, 0x00000812, 0x00010121, 0xFF000031] : List Word).all
      (fun w => decode w == .error .reservedBits) = true ∧
    ([0x00000000, 0x00000033, 0x00000017, 0x0000002A] : List Word).all
      (fun w => decode w == .error .reservedOpcode) = true ∧
    ([0x00001125, 0x00763325] : List Word).all (fun w => decode w == .error .sameDestination) = true := by decide +kernel

/-- The table's numbering: one 32-bit word; a POLY_DIV word as the host hands it over. -/
theorem test_decodeTableWord : decodeTableWord 32 0x00135425 = some (.polyDiv 4 5 3 1) := by decide +kernel

/-! ### One command each (spec/95_test_vectors.md) -/

/-- V-GF-01, V-GF-10: GF(16) is accepted, its tables are those listed. -/
theorem test_gfCfg_tables : Test.holds (exec .gfCfg (Test.unset 4 0x13 1)) (fun t => t.fieldValid &&
    t.field.expTab == [1, 2, 4, 8, 3, 6, 12, 11, 5, 10, 7, 14, 15, 13, 9, 1] &&
    t.field.logTab == [0, 1, 4, 2, 8, 5, 10, 3, 14, 9, 7, 6, 13, 11, 12]) = true := by decide +kernel

/-- V-GF-01: m = 4, POLY = 0x1F returns to 1 after 5 steps: STATUS 0x0000_0402. -/
theorem test_gfCfg_rejects : Test.holds (exec .gfCfg { Test.demo 0 0 0 0 with
    regs := { OperandRegs.reset with fieldM := 4, fieldPoly := 0x1F } }) (fun t => t.statusWord == 0x00000402 &&
    t.cacheDeg == 0) = true := by decide +kernel

/-- R107: 9 xor 13. -/
theorem test_gfAdd : Test.holds (exec .gfAdd (Test.demo 9 13 0 0)) (fun t => t.result == 4) = true := by decide +kernel

/-- V-GF-10: mul(9, 13) = 15; operand 16 gives E_RANGE. -/
theorem test_gfMul : Test.holds (exec .gfMul (Test.demo 9 13 0 0)) (fun t => t.result == 15) = true := by decide +kernel
theorem test_gfMul_range : Test.holds (exec .gfMul (Test.demo 16 1 0 0))
    (fun t => t.statusWord == 0x00000A06 && t.result == 7) = true := by decide +kernel

/-- From mul(9, 13) = 15 of V-GF-10: 15 / 13 = 9; and 0 / 0 is E_GF_ZERO (V-GF-06). -/
theorem test_gfDiv : Test.holds (exec .gfDiv (Test.demo 15 13 0 0)) (fun t => t.result == 9) = true := by decide +kernel
theorem test_gfDiv_zero : Test.holds (exec .gfDiv (Test.demo 0 0 0 0)) (fun t => t.statusWord == 0x00000506) = true := by
  decide +kernel

/-- V-GF-10: inv(7) = 6; V-GF-05: inv(0) is E_GF_ZERO. -/
theorem test_gfInv : Test.holds (exec .gfInv (Test.demo 7 0 0 0)) (fun t => t.result == 6) = true := by decide +kernel
theorem test_gfInv_zero : Test.holds (exec .gfInv (Test.demo 0 0 0 0)) (fun t => t.errCode == .gfZero) = true := by decide +kernel

/-- V-GF-10 and R102: the exponent 2^32 - 1 is a multiple of 15; EXP[14] = 9. -/
theorem test_gfExp_top : Test.holds (exec .gfExp (Test.demo 0xFFFFFFFF 0 0 0)) (fun t => t.result == 1) = true := by decide +kernel
theorem test_gfExp_last : Test.holds (exec .gfExp (Test.demo 14 0 0 0)) (fun t => t.result == 9) = true := by decide +kernel

/-- V-GF-10: LOG[9] = 14. -/
theorem test_gfLog : Test.holds (exec .gfLog (Test.demo 9 0 0 0)) (fun t => t.result == 14) = true := by decide +kernel

/-- SX-1's shape: 0, 5 are loaded as [5]; V-PL-10: a range past the buffer is E_CAPACITY. -/
theorem test_polyLoad : Test.holds (exec (.polyLoad 4) { Test.demo 4 2 0 0 with cw := memWrite [] 4 [0, 5] })
    (fun t => t.polys[4] == some [5]) = true := by decide +kernel
theorem test_polyLoad_capacity : Test.holds (exec (.polyLoad 4) (Test.demo 4095 2 0 0))
    (fun t => t.errCode == .capacity && t.polys[4] == none) = true := by decide +kernel

/-- V-PL-09: [5, 3] at 4094 fills the buffer's last two entries; RESULT = 2. At 4095: E_CAPACITY. -/
theorem test_polyStore : Test.holds (exec (.polyStore 3) (Test.demo 4094 0 0 0))
    (fun t => cwGet t.cw 4094 == some 5 && cwGet t.cw 4095 == some 3 && t.result == 2) = true := by decide +kernel
theorem test_polyStore_capacity : Test.holds (exec (.polyStore 3) (Test.demo 4095 0 0 0))
    (fun t => t.errCode == .capacity && cwGet t.cw 4095 == some 0) = true := by decide +kernel

/-- R134: [1, 6, 8] + [5, 3] = [1, 3, 11]; a source is the destination and the sum cancels to [0]. -/
theorem test_polyAdd : Test.holds (exec (.polyAdd 5 0 3) (Test.demo 0 0 0 0)) (fun t => t.polys[5] == some [1, 3, 11]) = true := by
  decide +kernel
theorem test_polyAdd_cancels : Test.holds (exec (.polyAdd 1 1 1) (Test.demo 0 0 0 0)) (fun t => t.polys[1] == some [0]) = true := by
  decide +kernel

/-- R170 in GF(16)/1: g_2 = g_1 [1, alpha^2] = [1, 2] [1, 4] = [1, 6, 8] (V-RS-11); a zero factor gives [0]. -/
theorem test_polyMul : polyMul Test.field16 [1, 2] [1, 4] = [1, 6, 8] := by decide +kernel
theorem test_polyMul_zero : Test.holds (exec (.polyMul 5 2 1) (Test.demo 0 0 0 0)) (fun t => t.polys[5] == some [0]) = true := by
  decide +kernel

/-- V-PL-04 in its form: [5, 3] with d = 2, c = 2 is [10, 6, 0, 0]; d = 4095, c = 0 is [0] with no error. -/
theorem test_polyMulmono : Test.holds (exec (.polyMulmono 4 3) (Test.demo 2 2 0 0))
    (fun t => t.polys[4] == some [10, 6, 0, 0]) = true := by decide +kernel
theorem test_polyMulmono_zero : Test.holds (exec (.polyMulmono 4 3) (Test.demo 4095 0 0 0))
    (fun t => t.polys[4] == some [0] && t.err == false) = true := by decide +kernel

/-- V-RS-11: the codeword [1, 2, 3, 4, 5] x^4 leaves the remainder 4, 4, 9, 7 after division by g_4; and a division by [0]. -/
theorem test_polyDiv : (polyDivmod Test.field16 [1, 2, 3, 4, 5, 0, 0, 0, 0] (generator Test.field16 4)).2 = [4, 4, 9, 7] := by
  decide +kernel
theorem test_polyDiv_zero : Test.holds (exec (.polyDiv 4 5 0 2) (Test.demo 0 0 0 0))
    (fun t => t.statusWord == 0x00000606 && t.polys[4] == none) = true := by decide +kernel

/-- V-PL-06: the degree is signed. -/
theorem test_polyCoef : Test.holds (exec (.polyCoef 3) (Test.demo 1 0 0 0)) (fun t => t.result == 5) = true := by decide +kernel
theorem test_polyCoef_negative : Test.holds (exec (.polyCoef 3) (Test.demo 0x80000000 0 0 0)) (fun t => t.result == 0) = true := by
  decide +kernel

/-- V-PL-07: a degree, and an invalid register (V-ER-04). -/
theorem test_polyDeg : Test.holds (exec (.polyDeg 1) (Test.demo 0 0 0 0)) (fun t => t.result == 5) = true := by decide +kernel
theorem test_polyDeg_uninit : Test.holds (exec (.polyDeg 4) (Test.demo 0 0 0 0)) (fun t => t.statusWord == 0x00000306) = true := by
  decide +kernel

/-- V-PL-07: [0] is zero, [5, 3] is not. -/
theorem test_polyIszero : Test.holds (exec (.polyIszero 2) (Test.demo 0 0 0 0)) (fun t => t.result == 1) = true := by decide +kernel
theorem test_polyIszero_not : Test.holds (exec (.polyIszero 3) (Test.demo 0 0 0 0)) (fun t => t.result == 0) = true := by decide +kernel

/-- Program P4: g_5 at 6 = alpha^5 is 0, at 12 = alpha^6 is 11. -/
theorem test_polyEval_root : Test.holds (exec (.polyEval 1) (Test.demo 6 0 0 0)) (fun t => t.result == 0) = true := by decide +kernel
theorem test_polyEval : Test.holds (exec (.polyEval 1) (Test.demo 12 0 0 0)) (fun t => t.result == 11) = true := by decide +kernel

/-- Program P4: g_5 = [1, 11, 4, 6, 2, 1] and CACHE_DEG = 5; d = 2 is read from the cache, which stays. -/
theorem test_rsGen : Test.holds (exec (.rsGen 6) (Test.demo 5 0 0 0))
    (fun t => t.polys[6] == some [1, 11, 4, 6, 2, 1] && t.cacheDeg == 5) = true := by decide +kernel
theorem test_rsGen_cached : Test.holds (exec (.rsGen 6) (Test.demo 1 0 0 0))
    (fun t => t.polys[6] == some [1, 2] && t.cacheDeg == 2) = true := by decide +kernel

/-- V-RS-11, program P6: EC = 4, 4, 9, 7, and CACHE_DEG = 4. -/
theorem test_rsEncode : Test.holds (exec .rsEncode (Test.demo 0 9 4 0))
    (fun t => memRead t.cw 0 9 == .ok [1, 2, 3, 4, 5, 4, 4, 9, 7] && t.cacheDeg == 4 && t.result == 7) = true := by decide +kernel

/-- V-RS-17: with L 0 and ec 0 the zero count is reported first. -/
theorem test_rsEncode_zero : Test.holds (exec .rsEncode (Test.demo 0 0 0 0)) (fun t => t.errCode == .zeroEc) = true := by decide +kernel

/-- V-SY-05: the codeword of V-RS-11 with ns = 5 gives 0, 0, 0, 0, 5 and RESULT = 1, also where the output overlaps the input. -/
theorem test_rsSynd : Test.holds
    (exec .rsSynd { Test.demo 0 9 5 4 with cw := memWrite [] 0 [1, 2, 3, 4, 5, 4, 4, 9, 7] })
    (fun t => memRead t.cw 0 9 == .ok [1, 2, 3, 4, 0, 0, 0, 0, 5] && t.result == 1) = true := by decide +kernel

/-- R233: a command stops on a codeword nothing has written. -/
theorem test_rsSynd_unwritten : Test.stop (exec .rsSynd (Test.demo 0 9 5 9)) = some (.unwrittenCodeword 5) := by decide +kernel

/-- V-HW-05, V-HW-11, R42: a CMD write while busy is dropped and sets OVERRUN. -/
theorem test_busy_write_dropped : Test.holds (busAccess (Test.running 0x11 1 2 0 0) (.write .word 0x010 0x12))
    (fun t => t.overrun && t.latch == (Test.running 0x11 1 2 0 0).latch) = true := by decide +kernel

/-- R232: an abort leaves the whole write range of a command open, also of one that would have failed (L 7, ec 3 at 4090 passes the
buffer's end: E_CAPACITY), cut to the buffer; CW[8] = 16 = SIZE would be E_RANGE. -/
theorem test_abort_range : abortRange (Test.running 0x31 4090 7 3 0) = { start := 4094, count := 2 } ∧
    abortRange (Test.running 0x32 8 1 2 0) = { start := 0, count := 2 } := by decide +kernel

/-- R41: a command uses the snapshot: an ARG0 that would be out of range arrives too late. -/
theorem test_snapshot : Test.holds (step { Test.running 0x11 9 13 0 0 with regs := OperandRegs.reset })
    (fun t => t.result == 4 && t.latch == none) = true := by decide +kernel

/-- V-ER-01, V-ER-02, from reset, by the next step: STATUS 0x0000_0102 and 0x0000_0202. -/
theorem test_from_reset : Test.holds (step (State.reset.withFetchWord 32 0)) (fun t => t.statusWord == 0x00000102) = true ∧
    Test.holds (step (State.reset.withFetchWord 32 0x12)) (fun t => t.statusWord == 0x00000202) = true := by decide +kernel

/-! ### Witnesses: what meets the hypotheses of each obligation -/

/-- A list of field elements that may stand in a register, as a test that runs. -/
def Test.polyGood (f : ActiveField) (p : PolyVal) : Bool :=
  p != [] && (p == [0] || p.head? != some 0) && decide (p.length ≤ Config.nmax) && p.all (fun x => decide (x.toNat < f.size))

theorem Test.polyOk_of_good {f : ActiveField} {p : PolyVal} (h : Test.polyGood f p = true) : PolyOk f p := by
  simp only [Test.polyGood, Bool.and_eq_true, Bool.or_eq_true, bne_iff_ne, beq_iff_eq, decide_eq_true_eq,
    List.all_eq_true] at h
  exact ⟨⟨h.1.1.1, h.1.1.2⟩, h.1.2, fun x hx => h.2 x hx⟩

/-- Lists of ones are good polynomials of every length the registers hold. -/
theorem Test.ones_ok (n : Nat) (h : 1 ≤ n) (h' : n ≤ Config.nmax) : PolyOk Test.field16 (List.replicate n 1) := by
  refine ⟨⟨?_, .inr ?_⟩, by simpa using h', fun x hx => ?_⟩
  · intro he; simp at he; omega
  · cases n with
    | zero => omega
    | succ n => simp [List.replicate_succ]
  · rw [List.eq_of_mem_replicate hx]; decide

theorem witness_field_valid : Test.field16.Valid := ⟨by decide +kernel, rfl⟩

/-- The smallest field, GF(2) of V-GF-09, is one too. -/
theorem witness_field_valid_smallest : (buildField 1 3 0).Valid := ⟨by decide +kernel, rfl⟩

/-- The invariant at a configured block with valid registers, an extended cache and written codewords, idle or running. -/
theorem witness_inv (a0 a1 a2 a3 : Word) : (Test.demo a0 a1 a2 a3).Inv where
  cwSorted := (by decide +kernel : Memory.wf (Test.demo 0 0 0 0).cw = true)
  cwInBuffer := (by decide +kernel : ∀ c ∈ (Test.demo 0 0 0 0).cw,
    Config.cwBase ≤ c.1 ∧ c.1 < Config.windowBytes ∧ c.1 % 4 < 2)
  fieldBuilt := fun _ => witness_field_valid
  polysOk := by
    intro i p h
    refine ⟨rfl, Test.polyOk_of_good ?_⟩
    have key : ∀ i : PReg, ((Test.demo 0 0 0 0).polys[i].map (Test.polyGood Test.field16)).getD true = true := by
      decide +kernel
    have h' : (Test.demo 0 0 0 0).polys[i] = some p := h
    have hk := key i
    rw [h'] at hk
    exact hk
  cacheSize := (by decide : 1 ≤ 3 ∧ 3 ≤ Config.nmax)
  cacheGenerators := by
    have key : ∀ d, d < 3 → (Test.demo 0 0 0 0).cache[d]? = some (generator Test.field16 d) := by decide +kernel
    exact fun _ d hd => key d hd
  cacheSeeded := by intro h; exact absurd h (by simp [Test.demo])
  errAgrees := (by decide : false = true ↔ ErrCode.noError ≠ .noError)
  busyClear := by intro _; rfl

theorem witness_inv_running (w a0 a1 a2 a3 : Word) : (Test.running w a0 a1 a2 a3).Inv :=
  { witness_inv a0 a1 a2 a3 with busyClear := fun _ => rfl, errAgrees := (by decide : false = true ↔ ErrCode.noError ≠ .noError) }

/-! #### Encoding, step, window -/

theorem witness_DecodeEncodeAgree : (Instr.polyDiv 7 6 5 4).wellFormed = true := by decide
theorem witness_LegalWordIsItsEncoding : decode 0x00135425 = .ok (.polyDiv 4 5 3 1) := by decide

/-- Both sides of R86, each of its disjuncts: a reserved OP, the reserved bits 11 and 31, and each unused field. -/
theorem witness_IllegalWordsBreakTheFormat :
    (∀ o : Opcode, o.code ≠ fieldOp 0x000000FF) ∧ decode 0x000000FF = .error .reservedOpcode ∧
    ((0x00000822 : Word).getLsbD 11 = true ∧ (0x80000031 : Word).getLsbD 31 = true) ∧
    (Opcode.gfAdd.usedMask &&& maskRd = 0 ∧ fieldRd 0x00000111 ≠ 0 ∧ decode 0x00000111 = .error .reservedBits) ∧
    (Opcode.polyAdd.usedMask &&& maskRe = 0 ∧ fieldRe 0x00007022 ≠ 0 ∧ decode 0x00007022 = .error .reservedBits) ∧
    (Opcode.polyLoad.usedMask &&& maskRs1 = 0 ∧ fieldRs1 0x00010020 ≠ 0 ∧ decode 0x00010020 = .error .reservedBits) ∧
    (Opcode.polyMulmono.usedMask &&& maskRs2 = 0 ∧ fieldRs2 0x00700024 ≠ 0 ∧ decode 0x00700024 = .error .reservedBits) ∧
    fieldRd 0x00001125 = fieldRe 0x00001125 := by
  refine ⟨fun o => ?_, by decide⟩
  cases o <;> decide

/-- The three cases of a running command: nothing on the bus, a polling host, an access in flight; and a placed word. -/
theorem witness_StepRunsLatchedCommand :
    (∃ l, (Test.running 0x12 9 13 0 0).latch = some l ∧ decode l.word = .ok .gfMul ∧ (Test.running 0x12 9 13 0 0).pending = []) ∧
    (∃ l, ((Test.running 0x12 9 13 0 0).setPending [.wait]).latch = some l ∧ decode l.word = .ok .gfMul) ∧
    (Event.access (.read .word 0x00C) ≠ .wait ∧ Event.powerOnReset ≠ .wait) ∧
    (0x00135425 < 2 ^ 32 ∧ decodeTableWord 32 0x00135425 = some (.polyDiv 4 5 3 1)) :=
  ⟨⟨_, rfl, by decide, rfl⟩, ⟨_, rfl, by decide⟩, by decide, by decide⟩

/-- An illegal word with nothing on the bus, with a polling host, with an access in flight. -/
theorem witness_IllegalWordCompletesWithError :
    (∃ l, (Test.running 0x822 0 0 0 0).latch = some l ∧ decode l.word = .error .reservedBits ∧
      (Test.running 0x822 0 0 0 0).pending = []) ∧
    (∃ l, ((Test.running 0x822 0 0 0 0).setPending [.wait]).latch = some l ∧ decode l.word = .error .reservedBits ∧
      ((Test.running 0x822 0 0 0 0).setPending [.wait]).pending = [.wait]) ∧
    Event.access (.write .word 0x008 1) ≠ .wait :=
  ⟨⟨_, rfl, by decide, rfl⟩, ⟨_, rfl, by decide, rfl⟩, by decide⟩

/-- For CmdWriteIsAccepted, IdleBlockWaitsForHost, OperandRegistersReadBack and CodewordWindowReadsBack: an idle block, with and
without events; the last codeword entry. -/
theorem witness_idle_block :
    (Test.demo 0 0 0 0).busy = false ∧ (Test.demo 0 0 0 0).pending = [] ∧
    ((Test.demo 0 0 0 0).setPending [.access (.write .word 0x010 0x12), .wait]).busy = false ∧ 4095 < Config.nmax := by decide

theorem witness_BusyBlockCompletes :
    (Test.running 0x12 9 13 0 0).busy = true ∧ ∃ t, step (Test.running 0x12 9 13 0 0) = .next t ∧ (t.busy == false) = true :=
  ⟨rfl, Test.next_of_holds (by decide +kernel)⟩

/-- A step that extends the cache and stores codewords, from a state that meets the invariant. -/
theorem witness_StepKeepsInvariant : (Test.running 0x31 0 9 4 0).Inv ∧
    ∃ t, step (Test.running 0x31 0 9 4 0) = .next t ∧ (t.cacheDeg == 4) = true :=
  ⟨witness_inv_running _ _ _ _ _, Test.next_of_holds (by decide +kernel)⟩

theorem witness_StepKeepsMemoryCanonical : Memory.wf (Test.running 0x31 0 9 4 0).cw = true ∧
    ∃ t, step (Test.running 0x31 0 9 4 0) = .next t ∧ (cwGet t.cw 8 == some 7) = true :=
  ⟨by decide +kernel, Test.next_of_holds (by decide +kernel)⟩

/-- SOFT_RESET with and without CLR_OVR, CLR_OVR alone, neither; an idle block. -/
theorem witness_ControlWriteActs :
    (0x00000001 : Word).getLsbD 0 = true ∧ (0x00000003 : Word).getLsbD 0 = true ∧
    ((0x00000002 : Word).getLsbD 0 = false ∧ (0x00000002 : Word).getLsbD 1 = true) ∧
    ((0xFFFFFFFC : Word).getLsbD 0 = false ∧ (0xFFFFFFFC : Word).getLsbD 1 = false) ∧
    (Test.demo 0 0 0 0).busy = false := by decide

/-- A running RS_ENCODE over CW[5..8]: entries 4 and 9 lie just outside; one with no EC words, whose write range is empty; a command
that writes no codeword; an illegal word. -/
theorem witness_AbortTouchesOnlyWriteRange :
    (∃ l, (Test.running 0x31 0 9 4 0).latch = some l ∧ decode l.word = .ok .rsEncode ∧
      (4 < (writeRange .rsEncode (Test.running 0x31 0 9 4 0)).start ∧
       (writeRange .rsEncode (Test.running 0x31 0 9 4 0)).start +
         (writeRange .rsEncode (Test.running 0x31 0 9 4 0)).count ≤ 9)) ∧
    (∃ l, (Test.running 0x31 0 9 0 0).latch = some l ∧ decode l.word = .ok .rsEncode ∧
      (writeRange .rsEncode (Test.running 0x31 0 9 0 0)).count = 0) ∧
    (∃ l, (Test.running 0x12 9 13 0 0).latch = some l ∧ decode l.word = .ok .gfMul ∧
      (∀ rs1, Instr.gfMul ≠ .polyStore rs1) ∧ Instr.gfMul ≠ .rsEncode ∧ Instr.gfMul ≠ .rsSynd) ∧
    ∃ l, (Test.running 0x822 0 0 0 0).latch = some l ∧ decode l.word = .error .reservedBits :=
  ⟨⟨_, rfl, by decide, by decide +kernel⟩, ⟨_, rfl, by decide, by decide +kernel⟩, ⟨_, rfl, by decide, by decide⟩,
   ⟨_, rfl, by decide⟩⟩

/-- V-HW-08: narrow accesses, the last byte of the window, an unaligned word. -/
theorem witness_BusErrorChangesNothing :
    (0x7FFF < Config.windowBytes ∧ Width.byte ≠ .word) ∧ (0x7FFC < Config.windowBytes ∧ Width.half ≠ .word) ∧
    (0x002 < Config.windowBytes ∧ 0x002 % 4 ≠ 0) := by decide

/-- A busy block, and the offsets at the ends of each clause's ranges. -/
theorem witness_BusyWindowRule : (Test.running 0x12 9 13 0 0).busy = true ∧
    (∀ o ∈ [0x000, 0x004, 0x008, 0x00C, 0x010, 0x014, 0x018, 0x01C, 0x020, 0x024, 0x028, 0x02C, 0x030, 0x03C, 0x040, 0x3FFC,
      0x4000, 0x7FFC], o < Config.windowBytes ∧ o % 4 = 0) ∧
    (0x030 ≤ 0x030 ∧ 0x03C < 0x040) ∧ (0x040 ≤ 0x040 ∧ 0x3FFC < 0x4000) := by decide

theorem witness_ReadsHaveNoSideEffect :
    ∃ t, busAccess (Test.demo 0 0 0 0) (.read .word 0x4010) = .next t ∧ (t.responses == [.data 5]) = true :=
  Test.next_of_holds (by decide +kernel)

/-- An idle block, and the ends of the reserved ranges. -/
theorem witness_ReadOnlyWindow : (Test.demo 0 0 0 0).busy = false ∧
    (∀ o ∈ [0x000, 0x004, 0x008, 0x00C, 0x010, 0x014, 0x018, 0x01C, 0x02C, 0x040, 0x3FFC], o % 4 = 0) ∧
    (0x040 ≤ 0x040 ∧ 0x3FFC < 0x4000) ∧ (Test.demo 0 0 0 0).cache.length ≤ Config.nmax := by decide

/-- Each command that reads codewords stops on an unwritten one; the host's read of the last unwritten entry; accesses just outside the
window. -/
theorem witness_OnlyUnwrittenReadsStop :
    exec (.polyLoad 0) (Test.demo 4 2 0 0) = .fault (.unwrittenCodeword 5) ∧
    exec .rsEncode (Test.demo 4089 4 1 0) = .fault (.unwrittenCodeword 4089) ∧
    exec .rsSynd (Test.demo 0 9 1 0) = .fault (.unwrittenCodeword 5) ∧
    busAccess State.reset (.read .word 0x7FFC) = .fault (.unwrittenCodeword 4095) ∧
    busAccess State.reset (.read .word 0x8000) = .fault (.outsideWindow 0x8000) ∧
    busAccess State.reset (.write .byte 0x8000 0) = .fault (.outsideWindow 0x8000) ∧
    (State.reset.busy = false ∧ 4095 < Config.nmax ∧ cwGet State.reset.cw 4095 = none) :=
  ⟨Test.fault_of_stop (by decide +kernel), Test.fault_of_stop (by decide +kernel), Test.fault_of_stop (by decide +kernel),
   Test.fault_of_stop (by decide +kernel), Test.fault_of_stop (by decide +kernel), Test.fault_of_stop (by decide +kernel),
   by decide⟩

/-! #### Errors and completion -/

theorem witness_NoFieldFailsEveryCommand :
    Instr.gfAdd ≠ .gfCfg ∧ Instr.gfAdd.wellFormed = true ∧ (Test.unset 0 0 0).fieldValid = false := by decide

/-- The first source, and the second one, invalid. -/
theorem witness_InvalidSourceFails :
    (Instr.polyAdd 5 4 0).wellFormed = true ∧ (Test.demo 0 0 0 0).fieldValid = true ∧
    (4 ∈ (Instr.polyAdd 5 4 0).sources ∧ 4 ∈ (Instr.polyDiv 5 6 0 4).sources ∧ (Test.demo 0 0 0 0).polys[(4 : PReg)] = none) := by
  decide +kernel

/-- A failing GF_DIV; a failing GF_CFG. -/
theorem witness_ErrorsArePrecise :
    (Instr.gfDiv ≠ .gfCfg ∧ ∃ t, exec .gfDiv (Test.demo 7 0 0 0) = .next t ∧ t.err = true) ∧
    (∃ t, exec .gfCfg (Test.unset 4 0x1F 0) = .next t ∧ t.err = true) :=
  ⟨⟨by decide, Test.next_of_holds (by decide +kernel)⟩, Test.next_of_holds (by decide +kernel)⟩

theorem witness_ErrorCodesAreThoseOfTheTable : Instr.gfDiv.wellFormed = true ∧
    ∃ t, exec .gfDiv (Test.demo 7 0 0 0) = .next t ∧ t.err = true :=
  ⟨by decide, Test.next_of_holds (by decide +kernel)⟩

theorem witness_CompletionReportsInStatus : ∃ t, exec .gfMul (Test.running 0x12 9 13 0 0) = .next t ∧ (t.result == 15) = true :=
  Test.next_of_holds (by decide +kernel)

/-! #### The Galois-field unit -/

/-- Both sides of the check: the smallest field; m = 0, m = 13, and each of the degree bounds (V-GF-01). -/
theorem witness_FieldCheckIsFullCycle : fieldOk 1 3 = true ∧ fieldOk 0 1 = false ∧ fieldOk 13 0x1B = false ∧
    fieldOk 4 0x0F = false ∧ fieldOk 4 0x20 = false ∧ fieldOk 4 0x1F = false := by decide +kernel

theorem witness_GfCfgBuildsField :
    fieldOk (Test.unset 4 0x13 1).operands.fieldM (Test.unset 4 0x13 1).operands.fieldPoly = true ∧
    fieldOk (Test.unset 1 3 0).operands.fieldM (Test.unset 1 3 0).operands.fieldPoly = true := by decide +kernel

theorem witness_GfAddWholeRule : fieldOp 0x00000111 = 0x11 ∧ (0x00000111 : Word) ≠ 0x00000011 := by decide

theorem witness_GfCfgRejectsInvalidField :
    fieldOk (Test.unset 4 0x1F 0).operands.fieldM (Test.unset 4 0x1F 0).operands.fieldPoly = false := by decide +kernel

/-- For GfMulIsCarrylessProduct, GfDivUndoesMultiplication, GfInvIsInverse, GfExpIsPowerOfAlpha and GfLogIsDiscreteLog: the largest
elements, nonzero. -/
theorem witness_scalar_operands : (Test.demo 15 15 0 0).fieldValid = true ∧ (Test.demo 15 15 0 0).field.Valid ∧
    (Test.demo 15 15 0 0).operands.arg0.toNat < (Test.demo 15 15 0 0).field.size ∧
    (Test.demo 15 15 0 0).operands.arg1.toNat < (Test.demo 15 15 0 0).field.size ∧
    (Test.demo 15 15 0 0).operands.arg0 ≠ 0 ∧ (Test.demo 15 15 0 0).operands.arg1 ≠ 0 :=
  ⟨rfl, witness_field_valid, by decide +kernel⟩

theorem witness_FieldLaws : Test.field16.Valid ∧ InField Test.field16 15 ∧ InField Test.field16 0 ∧ (15 : Elem) ≠ 0 :=
  ⟨witness_field_valid, by decide +kernel⟩

/-- SIZE = 16 as either operand; a zero divisor beside the largest element; a zero argument. -/
theorem witness_GfOperandErrors : (Test.demo 16 16 0 0).fieldValid = true ∧
    (Test.demo 16 0 0 0).field.size ≤ (Test.demo 16 0 0 0).operands.arg0.toNat ∧
    (Test.demo 0 16 0 0).field.size ≤ (Test.demo 0 16 0 0).operands.arg1.toNat ∧
    ((Test.demo 15 0 0 0).operands.arg0.toNat < (Test.demo 15 0 0 0).field.size ∧ (Test.demo 15 0 0 0).operands.arg1 = 0) ∧
    (Test.demo 0 0 0 0).operands.arg0 = 0 := by decide +kernel

/-! #### The polynomial unit -/

theorem witness_NormalizeStripsLeadingZeros : ([0, 0, 5, 3] : PolyVal) ≠ [] ∧ ([0, 0] : PolyVal) ≠ [] := by decide

/-- A range that ends with the buffer. -/
theorem witness_PolyLoadResult : (Test.demo 4090 6 0 0).fieldValid = true ∧
    (Test.demo 4090 6 0 0).operands.arg1.toNat = ([1, 2, 3, 4, 5, 0] : PolyVal).length ∧ ([1, 2, 3, 4, 5, 0] : PolyVal) ≠ [] ∧
    (Test.demo 4090 6 0 0).operands.arg0.toNat + ([1, 2, 3, 4, 5, 0] : PolyVal).length ≤ Config.nmax ∧
    HoldsElems (Test.demo 4090 6 0 0).field (Test.demo 4090 6 0 0).cw (Test.demo 4090 6 0 0).operands.arg0.toNat
      [1, 2, 3, 4, 5, 0] := by
  unfold HoldsElems; decide +kernel

theorem witness_PolyStoreResult : (Test.demo 4094 0 0 0).fieldValid = true ∧
    (Test.demo 4094 0 0 0).polys[(3 : PReg)] = some [5, 3] ∧
    (Test.demo 4094 0 0 0).operands.arg0.toNat + ([5, 3] : PolyVal).length ≤ Config.nmax := by decide +kernel

theorem witness_PolyAddResult : (Test.demo 0 0 0 0).fieldValid = true ∧
    (Test.demo 0 0 0 0).polys[(0 : PReg)] = some [1, 6, 8] ∧ (Test.demo 0 0 0 0).polys[(3 : PReg)] = some [5, 3] ∧
    ([1, 6, 8] : PolyVal) ≠ [] ∧ ([5, 3] : PolyVal) ≠ [] := by decide +kernel

/-- A block whose P0 and P1 hold n and k ones. -/
def Test.ones (n k : Nat) : State :=
  ((Test.demo 0 0 0 0).setPoly 0 (List.replicate n 1)).setPoly 1 (List.replicate k 1)

/-- A zero factor; a product of exactly NMAX coefficients; one of NMAX + 1. -/
theorem witness_PolyMulIsConvolution :
    (∀ n k, (Test.ones n k).fieldValid = true ∧ (Test.ones n k).field.Valid ∧
      (Test.ones n k).polys[(0 : PReg)] = some (List.replicate n 1) ∧
      (Test.ones n k).polys[(1 : PReg)] = some (List.replicate k 1)) ∧
    (PolyOk Test.field16 (List.replicate 2048 1) ∧ PolyOk Test.field16 (List.replicate 2049 1) ∧
      (List.replicate 2048 (1 : Elem)).length + (List.replicate 2049 (1 : Elem)).length - 1 ≤ Config.nmax) ∧
    (PolyOk Test.field16 (List.replicate 2049 1) ∧ List.replicate 2049 (1 : Elem) ≠ [0] ∧
      Config.nmax < (List.replicate 2049 (1 : Elem)).length + (List.replicate 2049 (1 : Elem)).length - 1) ∧
    ((Test.demo 0 0 0 0).polys[(2 : PReg)] = some [0] ∧ PolyOk Test.field16 [0]) := by
  refine ⟨fun n k => ⟨rfl, witness_field_valid, rfl, rfl⟩,
    ⟨Test.ones_ok _ (by omega) (by decide), Test.ones_ok _ (by omega) (by decide), ?_⟩,
    ⟨Test.ones_ok _ (by omega) (by decide), ?_, ?_⟩, by decide +kernel, Test.polyOk_of_good (by decide +kernel)⟩
  · simp only [List.length_replicate, Config.nmax]; omega
  · intro h
    have hl := congrArg List.length h
    rw [List.length_replicate] at hl
    exact absurd hl (by decide)
  · simp only [List.length_replicate, Config.nmax]; omega

/-- [5, 3] by d = 4094 fills the register (V-PL-04); c = 0 and p = [0] with the largest d. -/
theorem witness_PolyMulmonoResult : (Test.demo 4094 1 0 0).fieldValid = true ∧ (Test.demo 4094 1 0 0).field.Valid ∧
    (Test.demo 4094 1 0 0).polys[(3 : PReg)] = some [5, 3] ∧ PolyOk (Test.demo 4094 1 0 0).field [5, 3] ∧
    (Test.demo 4094 1 0 0).operands.arg1.toNat < (Test.demo 4094 1 0 0).field.size ∧
    ([5, 3] : PolyVal).length + (Test.demo 4094 1 0 0).operands.arg0.toNat ≤ Config.nmax ∧
    (Test.demo 0xFFFFFFFF 0 0 0).operands.arg1 = 0 ∧
    ((Test.demo 0xFFFFFFFF 1 0 0).polys[(2 : PReg)] = some [0] ∧ PolyOk (Test.demo 0xFFFFFFFF 1 0 0).field [0]) :=
  ⟨rfl, witness_field_valid, by decide +kernel, Test.polyOk_of_good (by decide +kernel), by decide +kernel, by decide +kernel,
   by decide +kernel, by decide +kernel, Test.polyOk_of_good (by decide +kernel)⟩

/-- g_5 divided by g_2. -/
theorem witness_PolyDivIsDivisionWithRemainder : (4 : PReg) ≠ 5 ∧ (Test.demo 0 0 0 0).fieldValid = true ∧
    (Test.demo 0 0 0 0).field.Valid ∧ (Test.demo 0 0 0 0).polys[(1 : PReg)] = some [1, 11, 4, 6, 2, 1] ∧
    (Test.demo 0 0 0 0).polys[(0 : PReg)] = some [1, 6, 8] ∧ PolyOk (Test.demo 0 0 0 0).field [1, 11, 4, 6, 2, 1] ∧
    PolyOk (Test.demo 0 0 0 0).field [1, 6, 8] ∧ ([1, 6, 8] : PolyVal) ≠ [0] :=
  ⟨by decide, rfl, witness_field_valid, by decide +kernel, by decide +kernel, Test.polyOk_of_good (by decide +kernel),
   Test.polyOk_of_good (by decide +kernel), by decide⟩

/-- A remainder of degree one below the divisor's; a constant divisor. -/
theorem witness_DivisionRoundTrip : Test.field16.Valid ∧ PolyOk Test.field16 [3, 1, 4] ∧ PolyOk Test.field16 [1, 5, 9] ∧
    PolyOk Test.field16 [2, 6] ∧ ([1, 5, 9] : PolyVal) ≠ [0] ∧ deg [2, 6] < deg [1, 5, 9] ∧
    (PolyOk Test.field16 [7] ∧ ([7] : PolyVal) ≠ [0] ∧ deg [7] = 0) :=
  ⟨witness_field_valid, Test.polyOk_of_good (by decide +kernel), Test.polyOk_of_good (by decide +kernel),
   Test.polyOk_of_good (by decide +kernel), by decide, by decide, Test.polyOk_of_good (by decide +kernel), by decide, by decide⟩

theorem witness_PolyQueriesWholeRules : (fieldOp 0x00010126 = 0x26 ∧ (0x00010126 : Word) &&& ~~~0x000700FF ≠ 0) ∧
    (Test.unset 0 0 0).fieldValid = false ∧
    ((Test.demo 0 0 0 0).fieldValid = true ∧ (Test.demo 0 0 0 0).polys[(4 : PReg)] = none) ∧
    (Test.demo 0 0 0 0).polys[(3 : PReg)] = some [5, 3] ∧
    (0 ≤ (Test.demo 1 0 0 0).operands.arg0.toInt ∧ (Test.demo 1 0 0 0).operands.arg0.toInt < ([5, 3] : PolyVal).length) := by
  decide +kernel

theorem witness_PolyEvalIsPowerSum : (Test.demo 15 0 0 0).fieldValid = true ∧ (Test.demo 15 0 0 0).field.Valid ∧
    (Test.demo 15 0 0 0).polys[(1 : PReg)] = some [1, 11, 4, 6, 2, 1] ∧ PolyOk (Test.demo 15 0 0 0).field [1, 11, 4, 6, 2, 1] ∧
    (Test.demo 15 0 0 0).operands.arg0.toNat < (Test.demo 15 0 0 0).field.size :=
  ⟨rfl, witness_field_valid, by decide +kernel, Test.polyOk_of_good (by decide +kernel), by decide +kernel⟩

/-- Each error of the POLY commands at its boundary: no words; one word past the buffer; CW[8] = 16 = SIZE; [5, 3] at 4095; c and a
point of 16 = SIZE; d = 4095 for two coefficients; the divisor [0]. -/
theorem witness_PolyOperandErrors : (Test.demo 0 0 0 0).fieldValid = true ∧ (Test.demo 0 0 0 0).operands.arg1 = 0 ∧
    ((Test.demo 4095 2 0 0).operands.arg1 ≠ 0 ∧
      Config.nmax < (Test.demo 4095 2 0 0).operands.arg0.toNat + (Test.demo 4095 2 0 0).operands.arg1.toNat) ∧
    ((Test.demo 8 1 0 0).operands.arg1.toNat = ([16] : List Codeword).length ∧ ([16] : List Codeword) ≠ [] ∧
      (Test.demo 8 1 0 0).operands.arg0.toNat + ([16] : List Codeword).length ≤ Config.nmax ∧
      (∀ k, k < ([16] : List Codeword).length →
        cwGet (Test.demo 8 1 0 0).cw ((Test.demo 8 1 0 0).operands.arg0.toNat + k) = ([16] : List Codeword)[k]?) ∧
      (Test.demo 8 1 0 0).field.size ≤ (16 : Codeword).toNat) ∧
    ((Test.demo 4095 0 0 0).polys[(3 : PReg)] = some [5, 3] ∧
      Config.nmax < (Test.demo 4095 0 0 0).operands.arg0.toNat + ([5, 3] : PolyVal).length) ∧
    (Test.demo 0 16 0 0).field.size ≤ (Test.demo 0 16 0 0).operands.arg1.toNat ∧
    ((Test.demo 4095 15 0 0).field.size ≤ 4096 ∧
      (Test.demo 4095 15 0 0).operands.arg1.toNat < (Test.demo 4095 15 0 0).field.size ∧
      (Test.demo 4095 15 0 0).operands.arg1 ≠ 0 ∧ ([5, 3] : PolyVal) ≠ [0] ∧
      Config.nmax < ([5, 3] : PolyVal).length + (Test.demo 4095 15 0 0).operands.arg0.toNat) ∧
    (Test.demo 16 0 0 0).field.size ≤ (Test.demo 16 0 0 0).operands.arg0.toNat ∧
    ((4 : PReg) ≠ 5 ∧ (Test.demo 0 0 0 0).polys[(2 : PReg)] = some [0]) := by decide +kernel

/-! #### The Reed-Solomon unit -/

/-- Degree 4095 = NMAX - 1, and 4096. -/
theorem witness_RsGenReturnsGenerator : (Test.demo 4095 0 0 0).Inv ∧ (Test.demo 4095 0 0 0).fieldValid = true ∧
    (Test.demo 4095 0 0 0).operands.arg0.toNat < Config.nmax ∧ (Test.demo 4096 0 0 0).Inv ∧
    Config.nmax ≤ (Test.demo 4096 0 0 0).operands.arg0.toNat :=
  ⟨witness_inv _ _ _ _, rfl, by decide, witness_inv _ _ _ _, by decide⟩

/-- Five data words and one EC word that end with the buffer; a root of the cached g_2. -/
theorem witness_RsEncodeMakesCodeword : (Test.demo 4090 6 1 0).Inv ∧ (Test.demo 4090 6 1 0).fieldValid = true ∧
    1 ≤ (Test.demo 4090 6 1 0).operands.arg2.toNat ∧ ([1, 2, 3, 4, 5] : PolyVal) ≠ [] ∧
    (Test.demo 4090 6 1 0).operands.arg1.toNat =
      ([1, 2, 3, 4, 5] : PolyVal).length + (Test.demo 4090 6 1 0).operands.arg2.toNat ∧
    (Test.demo 4090 6 1 0).operands.arg0.toNat + (Test.demo 4090 6 1 0).operands.arg1.toNat ≤ Config.nmax ∧
    HoldsElems (Test.demo 4090 6 1 0).field (Test.demo 4090 6 1 0).cw (Test.demo 4090 6 1 0).operands.arg0.toNat
      [1, 2, 3, 4, 5] := by
  refine ⟨witness_inv _ _ _ _, ?_⟩
  unfold HoldsElems; decide +kernel

theorem witness_GeneratorHasItsRoots : Test.field16.Valid ∧ 4 < 5 := ⟨witness_field_valid, by decide⟩

/-- The last six codewords, with two syndromes that end with the buffer (over the input). -/
theorem witness_RsSyndWritesEvaluations : (Test.demo 4090 6 2 4094).fieldValid = true ∧ (Test.demo 4090 6 2 4094).field.Valid ∧
    1 ≤ (Test.demo 4090 6 2 4094).operands.arg2.toNat ∧ ([1, 2, 3, 4, 5, 0] : PolyVal) ≠ [] ∧
    (Test.demo 4090 6 2 4094).operands.arg1.toNat = ([1, 2, 3, 4, 5, 0] : PolyVal).length ∧
    (Test.demo 4090 6 2 4094).operands.arg0.toNat + ([1, 2, 3, 4, 5, 0] : PolyVal).length ≤ Config.nmax ∧
    (Test.demo 4090 6 2 4094).operands.arg3.toNat + (Test.demo 4090 6 2 4094).operands.arg2.toNat ≤ Config.nmax ∧
    HoldsElems (Test.demo 4090 6 2 4094).field (Test.demo 4090 6 2 4094).cw (Test.demo 4090 6 2 4094).operands.arg0.toNat
      [1, 2, 3, 4, 5, 0] := by
  refine ⟨rfl, witness_field_valid, ?_⟩
  unfold HoldsElems; decide +kernel

/-- The state the host sees after an RS_ENCODE, with ARG2 and ARG3 written for as many syndromes as EC words. -/
theorem witness_EncodedBlockHasZeroSyndromes : (Test.demo 0 9 4 0).Inv ∧ (Test.demo 0 9 4 0).fieldValid = true ∧
    ∃ t, exec .rsEncode (Test.demo 0 9 4 0) = .next t ∧ (t.err = false ∧
      ∃ u : State, u.fieldValid = true ∧ u.field = (Test.demo 0 9 4 0).field ∧ u.cw = t.cw ∧
        u.operands.arg0 = (Test.demo 0 9 4 0).operands.arg0 ∧ u.operands.arg1 = (Test.demo 0 9 4 0).operands.arg1 ∧
        1 ≤ u.operands.arg2.toNat ∧ u.operands.arg2.toNat ≤ (Test.demo 0 9 4 0).operands.arg2.toNat ∧
        u.operands.arg3.toNat + u.operands.arg2.toNat ≤ Config.nmax) := by
  refine ⟨witness_inv _ _ _ _, rfl, ?_⟩
  obtain ⟨t, h, he⟩ : ∃ t, exec .rsEncode (Test.demo 0 9 4 0) = .next t ∧ (t.err == false) = true :=
    Test.next_of_holds (by decide +kernel)
  exact ⟨t, h, by simpa using he, { Test.demo 0 9 4 4092 with cw := t.cw }, rfl, rfl, rfl, rfl, rfl,
    (by decide : 1 ≤ (4 : Word).toNat ∧ (4 : Word).toNat ≤ (4 : Word).toNat ∧ (4092 : Word).toNat + (4 : Word).toNat ≤ Config.nmax)⟩

/-- Each error of the RS commands at its boundary: no EC words; as many EC words as words; one word past the buffer; no words; one
syndrome past the buffer; CW[8] = 16 = SIZE as a data word and as a received word. -/
theorem witness_RsOperandErrors : (Test.demo 0 0 0 0).fieldValid = true ∧ (Test.demo 0 0 0 0).operands.arg2 = 0 ∧
    ((Test.demo 0 3 3 0).operands.arg2 ≠ 0 ∧
      (Test.demo 0 3 3 0).operands.arg1.toNat ≤ (Test.demo 0 3 3 0).operands.arg2.toNat) ∧
    ((Test.demo 4090 7 3 0).operands.arg2 ≠ 0 ∧
      (Test.demo 4090 7 3 0).operands.arg2.toNat < (Test.demo 4090 7 3 0).operands.arg1.toNat ∧
      Config.nmax < (Test.demo 4090 7 3 0).operands.arg0.toNat + (Test.demo 4090 7 3 0).operands.arg1.toNat) ∧
    ((Test.demo 0 0 1 0).operands.arg2 ≠ 0 ∧ (Test.demo 0 0 1 0).operands.arg1 = 0) ∧
    ((Test.demo 0 1 3 4094).operands.arg2 ≠ 0 ∧ (Test.demo 0 1 3 4094).operands.arg1 ≠ 0 ∧
      Config.nmax < (Test.demo 0 1 3 4094).operands.arg3.toNat + (Test.demo 0 1 3 4094).operands.arg2.toNat) ∧
    ((Test.demo 8 2 1 0).operands.arg2 ≠ 0 ∧ ([16] : List Codeword) ≠ [] ∧
      (Test.demo 8 2 1 0).operands.arg0.toNat + (Test.demo 8 2 1 0).operands.arg1.toNat ≤ Config.nmax ∧
      (∀ k, k < ([16] : List Codeword).length →
        cwGet (Test.demo 8 2 1 0).cw ((Test.demo 8 2 1 0).operands.arg0.toNat + k) = ([16] : List Codeword)[k]?) ∧
      (Test.demo 8 2 1 0).field.size ≤ (16 : Codeword).toNat ∧
      (Test.demo 8 2 1 0).operands.arg1.toNat = ([16] : List Codeword).length + (Test.demo 8 2 1 0).operands.arg2.toNat) ∧
    ((Test.demo 8 1 1 4095).operands.arg1.toNat = ([16] : List Codeword).length ∧
      (Test.demo 8 1 1 4095).operands.arg3.toNat + (Test.demo 8 1 1 4095).operands.arg2.toNat ≤ Config.nmax) := by
  decide +kernel

/-! #### Frames -/

theorem witness_ScalarCommandFrame : Instr.polyEval 1 ∈ [Instr.gfAdd, .gfMul, .gfDiv, .gfInv, .gfExp, .gfLog, .polyCoef 1,
      .polyDeg 1, .polyIszero 1, .polyEval 1] ∧
    ∃ t, exec (.polyEval 1) (Test.demo 12 0 0 0) = .next t ∧ (t.result == 11) = true :=
  ⟨by decide, Test.next_of_holds (by decide +kernel)⟩

theorem witness_PolynomialCommandFrame : Instr.polyDiv 4 5 1 0 ∈ [Instr.polyLoad 4, .polyAdd 4 1 0, .polyMul 4 1 0,
      .polyMulmono 4 1, .polyDiv 4 5 1 0, .rsGen 4] ∧
    ∃ t, exec (.polyDiv 4 5 1 0) (Test.demo 0 0 0 0) = .next t ∧ (t.err == false) = true :=
  ⟨by decide, Test.next_of_holds (by decide +kernel)⟩

theorem witness_BufferCommandFrame : (Test.demo 0 9 4 0).Inv ∧ Instr.rsEncode ∈ [Instr.polyStore 3, .rsEncode, .rsSynd] ∧
    ∃ t, exec .rsEncode (Test.demo 0 9 4 0) = .next t ∧ (t.cacheDeg == 4) = true :=
  ⟨witness_inv _ _ _ _, by decide, Test.next_of_holds (by decide +kernel)⟩
end

/-! ## The arithmetic of a configured field (R36, R37, R100 to R106) -/

namespace Sys2Proof.Machine

/-! ### Elements -/

theorem InField.xor {f : ActiveField} {a b : Elem} (ha : InField f a) (hb : InField f b) : InField f (a ^^^ b) := by
  simpa [InField, ActiveField.size] using Nat.xor_lt_two_pow ha hb

theorem InField.zero (f : ActiveField) : InField f 0 := by simp [InField, ActiveField.size]

/-- What R101 asks of the parameters, clause by clause. -/
theorem fieldOk_iff (m : BitVec 4) (poly : BitVec 13) :
    fieldOk m poly = true ↔ 1 ≤ m.toNat ∧ m.toNat ≤ 12 ∧ 2 ^ m.toNat ≤ poly.toNat ∧ poly.toNat < 2 * 2 ^ m.toNat ∧
      ((powerTable m.toNat poly).take (2 ^ m.toNat - 1)).Nodup ∧ 0 ∉ (powerTable m.toNat poly).take (2 ^ m.toNat - 1) ∧
      (powerTable m.toNat poly)[2 ^ m.toNat - 1]? = some 1 := by
  simp only [fieldOk, fullCycle, Bool.and_eq_true, decide_eq_true_eq, Bool.not_eq_true', beq_iff_eq,
    List.contains_eq_mem, decide_eq_false_iff_not, and_assoc]
  rfl

/-- A doubling step keeps the elements below 2^m: the polynomial of degree m cancels the bit m. -/
theorem xtime_lt {m : Nat} {poly : BitVec 13} {x : Elem} (hm : m ≤ 12) (hlo : 2 ^ m ≤ poly.toNat)
    (hhi : poly.toNat < 2 * 2 ^ m) (hx : x.toNat < 2 ^ m) : (xtime m poly x).toNat < 2 ^ m := by
  have hpow : 2 ^ m ≤ 2 ^ 12 := Nat.pow_le_pow_right (by decide) hm
  have hy : (x.setWidth 13 <<< 1 : BitVec 13).toNat = 2 * x.toNat := by
    simp only [BitVec.toNat_shiftLeft, BitVec.toNat_setWidth, Nat.shiftLeft_eq]
    omega
  simp only [xtime, BitVec.toNat_setWidth]
  refine (Nat.mod_le _ _).trans_lt ?_
  split
  · next h =>
    rw [hy] at h
    have hbit : ∀ n, 2 ^ m ≤ n → n < 2 * 2 ^ m → n / 2 ^ m = 1 := fun n h1 h2 =>
      Nat.div_eq_of_lt_le (by omega) (by omega)
    refine Nat.lt_of_div_eq_zero (by positivity) ?_
    rw [BitVec.toNat_xor, hy, Nat.xor_div_two_pow, hbit _ h (by omega), hbit _ hlo hhi, Nat.xor_self]
  · next h => omega

theorem powersFrom_lt {m : Nat} {poly : BitVec 13} (hm : m ≤ 12) (hlo : 2 ^ m ≤ poly.toNat)
    (hhi : poly.toNat < 2 * 2 ^ m) {n : Nat} {x y : Elem} (hx : x.toNat < 2 ^ m) (hy : y ∈ powersFrom m poly n x) :
    y.toNat < 2 ^ m := by
  induction n generalizing x with
  | zero => simp [powersFrom] at hy
  | succ n ih =>
    rcases List.mem_cons.mp hy with rfl | hy
    · exact hx
    · exact ih (xtime_lt hm hlo hhi hx) hy

/-! ### Exponentials and logarithms of a configured field

The nonzero elements are the powers `gfExp f i`, each once for `i < SIZE - 1`, and `gfLog` gives the exponent back; so products and
inverses are sums and differences of exponents. -/

section
variable {f : ActiveField} (hf : f.Valid)
include hf

theorem ActiveField.Valid.expTab_eq : f.expTab = powerTable f.am.toNat f.apoly := by
  rw [hf.2]; rfl

theorem ActiveField.Valid.logTab_eq : f.logTab = logTable f.am.toNat f.expTab := by
  rw [hf.2]; rfl

theorem ActiveField.Valid.two_le_size : 2 ≤ f.size := by
  obtain ⟨hm, -⟩ := (fieldOk_iff _ _).mp hf.1
  exact Nat.pow_le_pow_right (n := 2) (by decide) hm

theorem ActiveField.Valid.size_le : f.size ≤ 4096 := by
  obtain ⟨-, hm, -⟩ := (fieldOk_iff _ _).mp hf.1
  exact Nat.pow_le_pow_right (n := 2) (by decide) hm

theorem ActiveField.Valid.one_inField : InField f 1 := hf.two_le_size

theorem ActiveField.Valid.expTab_inField {x : Elem} (hx : x ∈ f.expTab) : InField f x := by
  obtain ⟨hm, hm', hlo, hhi, -⟩ := (fieldOk_iff _ _).mp hf.1
  rw [hf.expTab_eq] at hx
  exact powersFrom_lt hm' hlo hhi hf.one_inField hx

/-- The cycle of R101, as the exponentials of the table. -/
theorem ActiveField.Valid.cycle_getElem? {i : Nat} (hi : i < f.size - 1) :
    (f.expTab.take (f.size - 1))[i]? = some (gfExp f i) := by
  have hlen : i < f.expTab.length := by
    rw [hf.expTab_eq, powerTable_length]
    change i < f.size
    omega
  rw [List.getElem?_take_of_lt hi, gfExp, expEntry, Nat.mod_eq_of_lt hi, List.getElem?_eq_getElem hlen, Option.getD_some]

theorem ActiveField.Valid.gfExp_mem_cycle (i : Nat) : gfExp f i ∈ f.expTab.take (f.size - 1) := by
  have := hf.two_le_size
  rw [← gfExp_mod]
  exact List.mem_of_getElem? (hf.cycle_getElem? (Nat.mod_lt _ (by omega)))

theorem ActiveField.Valid.gfExp_inField (i : Nat) : InField f (gfExp f i) :=
  hf.expTab_inField (List.mem_of_mem_take (hf.gfExp_mem_cycle i))

theorem ActiveField.Valid.gfExp_ne_zero (i : Nat) : gfExp f i ≠ 0 := by
  obtain ⟨-, -, -, -, -, hz, -⟩ := (fieldOk_iff _ _).mp hf.1
  intro h
  have hmem := hf.gfExp_mem_cycle i
  rw [h, hf.expTab_eq] at hmem
  exact hz hmem

theorem ActiveField.Valid.cycle_nodup : (f.expTab.take (f.size - 1)).Nodup := by
  obtain ⟨-, -, -, -, hn, -⟩ := (fieldOk_iff _ _).mp hf.1
  rw [hf.expTab_eq]
  exact hn

/-- The place of a power in the table is its exponent (R37: LOG inverts EXP). -/
theorem ActiveField.Valid.idxOf_gfExp {i : Nat} (hi : i < f.size - 1) : f.expTab.idxOf (gfExp f i) = i := by
  obtain ⟨hlt, hget⟩ := List.getElem?_eq_some_iff.mp (hf.cycle_getElem? hi)
  have hplace := hf.cycle_nodup.idxOf_getElem i hlt
  rw [hget] at hplace
  rw [← List.take_append_drop (f.size - 1) f.expTab, List.idxOf_append_of_mem (hf.gfExp_mem_cycle i), hplace]

theorem ActiveField.Valid.gfExp_injOn : Set.InjOn (gfExp f) (Finset.range (f.size - 1)) := by
  intro i hi j hj h
  rw [← hf.idxOf_gfExp (Finset.mem_range.mp hi), h, hf.idxOf_gfExp (Finset.mem_range.mp hj)]

theorem ActiveField.Valid.gfExp_zero : gfExp f 0 = 1 := by
  have hpos : 0 < 2 ^ f.am.toNat := by positivity
  rw [gfExp, expEntry, Nat.zero_mod, hf.expTab_eq, powerTable, powersFrom_getElem? _ _ _ _ _ hpos]
  rfl

/-- Every nonzero element is a power: there are as many powers as nonzero elements. -/
theorem ActiveField.Valid.exists_gfExp {x : Elem} (hx : InField f x) (h0 : x ≠ 0) : ∃ i < f.size - 1, gfExp f i = x := by
  have hpos : ∀ y : Elem, y ≠ 0 → 1 ≤ y.toNat := fun y hy =>
    Nat.one_le_iff_ne_zero.mpr fun h => hy (BitVec.eq_of_toNat_eq h)
  have hmaps : Set.MapsTo (fun i => (gfExp f i).toNat) (Finset.range (f.size - 1)) (Finset.Ico 1 f.size) := fun i _ => by
    simpa using ⟨hpos _ (hf.gfExp_ne_zero i), hf.gfExp_inField i⟩
  have hinj : Set.InjOn (fun i => (gfExp f i).toNat) (Finset.range (f.size - 1)) := fun i hi j hj h =>
    hf.gfExp_injOn hi hj (BitVec.eq_of_toNat_eq h)
  obtain ⟨i, hi, h⟩ := Finset.surjOn_of_injOn_of_card_le _ hmaps hinj (by simp)
    (Finset.mem_coe.mpr (Finset.mem_Ico.mpr ⟨hpos x h0, hx⟩))
  exact ⟨i, by simpa using hi, BitVec.eq_of_toNat_eq h⟩

/-- LOG of a nonzero element is its place in the table (R37). -/
theorem ActiveField.Valid.gfLog_eq_idxOf {x : Elem} (hx : InField f x) (h0 : x ≠ 0) :
    gfLog f x = BitVec.ofNat 12 (f.expTab.idxOf x) := by
  have hpos : 1 ≤ x.toNat := Nat.one_le_iff_ne_zero.mpr fun h => h0 (BitVec.eq_of_toNat_eq h)
  have hlt : x.toNat - 1 < 2 ^ f.am.toNat - 1 := by
    have : x.toNat < 2 ^ f.am.toNat := hx
    omega
  rw [gfLog, logEntry, if_neg h0, hf.logTab_eq, logTable, List.getElem?_map, List.getElem?_range hlt, Option.map_some,
    Option.getD_some, Nat.sub_add_cancel hpos, BitVec.ofNat_toNat, BitVec.setWidth_eq]

/-- LOG undoes EXP on the exponents below SIZE - 1. -/
theorem ActiveField.Valid.gfLog_gfExp {i : Nat} (hi : i < f.size - 1) : (gfLog f (gfExp f i)).toNat = i := by
  have hsize := hf.size_le
  rw [hf.gfLog_eq_idxOf (hf.gfExp_inField i) (hf.gfExp_ne_zero i), hf.idxOf_gfExp hi, BitVec.toNat_ofNat,
    Nat.mod_eq_of_lt (by omega)]

/-- The product of two powers adds their exponents (R104). -/
theorem ActiveField.Valid.gfMul_gfExp (i j : Nat) : gfMul f (gfExp f i) (gfExp f j) = gfExp f (i + j) := by
  have hpos : 0 < f.size - 1 := by have := hf.two_le_size; omega
  have hlog : ∀ k, (gfLog f (gfExp f k)).toNat = k % (f.size - 1) := fun k => by
    rw [← gfExp_mod, hf.gfLog_gfExp (Nat.mod_lt _ hpos)]
  rw [gfMul_nonzero f (hf.gfExp_ne_zero i) (hf.gfExp_ne_zero j), hlog, hlog, ← gfExp_mod, ← Nat.add_mod, gfExp_mod]

theorem ActiveField.Valid.gfMul_inField (a b : Elem) : InField f (gfMul f a b) := by
  unfold gfMul
  split
  · exact InField.zero f
  · exact hf.gfExp_inField _

theorem ActiveField.Valid.gfMul_one {a : Elem} (ha : InField f a) : gfMul f a 1 = a := by
  by_cases h0 : a = 0
  · rw [h0, gfMul_zero_left]
  · obtain ⟨i, -, rfl⟩ := hf.exists_gfExp ha h0
    rw [← hf.gfExp_zero, hf.gfMul_gfExp, Nat.add_zero]

/-- Dividing by a nonzero element and multiplying by it again gives the element back (R105, R106). -/
theorem ActiveField.Valid.gfMul_gfDiv {a b : Elem} (ha : InField f a) (hb : InField f b) (h0 : b ≠ 0) :
    gfMul f (gfDiv f a b) b = a := by
  by_cases ha0 : a = 0
  · rw [ha0, gfDiv, gfMul_zero_left, gfMul_zero_left]
  · obtain ⟨i, -, rfl⟩ := hf.exists_gfExp ha ha0
    obtain ⟨j, hj, rfl⟩ := hf.exists_gfExp hb h0
    have hexp : i + (f.size - 1 - j) + j = i + (f.size - 1) := by omega
    rw [gfDiv, gfInv, hf.gfLog_gfExp hj, hf.gfMul_gfExp, hf.gfMul_gfExp, hexp, ← gfExp_mod, Nat.add_mod_right, gfExp_mod]

end

theorem gfMul_comm (f : ActiveField) (a b : Elem) : gfMul f a b = gfMul f b a := by
  simp only [gfMul, or_comm, Nat.add_comm]

end Sys2Proof.Machine

/-! ## Polynomials over a configured field (R22, R130 to R138, R170 to R174) -/

namespace Sys2Proof.Machine

/-- Every coefficient is an element of the field (R22). -/
abbrev AllInField (f : ActiveField) (p : PolyVal) : Prop := ∀ c ∈ p, InField f c

/-! ### Normalized lists -/

theorem normalizePoly_of_head {c : Elem} (h : c ≠ 0) (rest : PolyVal) : normalizePoly (c :: rest) = c :: rest := by
  cases rest with
  | nil => rfl
  | cons d rest => rw [normalizePoly, if_neg h]

theorem normalizePoly_zero_cons {p : PolyVal} (h : p ≠ []) : normalizePoly (0 :: p) = normalizePoly p := by
  cases p with
  | nil => exact absurd rfl h
  | cons d rest => rw [normalizePoly, if_pos rfl]

theorem normalizePoly_normalized {c : PolyVal} (h : c ≠ []) : Normalized (normalizePoly c) := by
  refine ⟨normalizePoly_ne_nil h, ?_⟩
  induction c using normalizePoly.induct with
  | case1 => exact absurd rfl h
  | case2 c =>
    rcases eq_or_ne c 0 with rfl | hc
    · exact .inl rfl
    · exact .inr (by simpa [normalizePoly] using hc)
  | case3 d rest ih => rw [normalizePoly_zero_cons (by simp)]; exact ih (by simp)
  | case4 c d rest hc => rw [normalizePoly_of_head hc]; simpa using hc

/-- A normalized polynomial other than [0] has a nonzero leading coefficient. -/
theorem Normalized.eq_cons {p : PolyVal} (h : Normalized p) (hz : isZero p = false) : ∃ c rest, p = c :: rest ∧ c ≠ 0 := by
  obtain ⟨hne, h | h⟩ := h
  · simp [isZero, h] at hz
  · cases p with
    | nil => exact absurd rfl hne
    | cons c rest => exact ⟨c, rest, rfl, by simpa using h⟩

theorem isZero_of_head {c : Elem} (h : c ≠ 0) (rest : PolyVal) : isZero (c :: rest) = false :=
  beq_eq_false_iff_ne.mpr fun e => h (List.cons.inj e).1

theorem normalized_zero : Normalized [0] := ⟨by simp, .inl rfl⟩

/-! ### Elements, lengths and normal form of the results -/

theorem AllInField.zeros (f : ActiveField) (n : Nat) : AllInField f (zeros n) := fun c hc => by
  rw [List.eq_of_mem_replicate hc]; exact InField.zero f

theorem AllInField.append {f : ActiveField} {a b : PolyVal} (ha : AllInField f a) (hb : AllInField f b) :
    AllInField f (a ++ b) := fun c hc => (List.mem_append.mp hc).elim (ha c) (hb c)

theorem AllInField.cons {f : ActiveField} {c : Elem} {p : PolyVal} (hc : InField f c) (hp : AllInField f p) :
    AllInField f (c :: p) := List.forall_mem_cons.mpr ⟨hc, hp⟩

theorem AllInField.normalize {f : ActiveField} {p : PolyVal} (h : AllInField f p) : AllInField f (normalizePoly p) :=
  fun c hc => h c (mem_of_mem_normalizePoly hc)

theorem AllInField.xorLists {f : ActiveField} {a b : PolyVal} (ha : AllInField f a) (hb : AllInField f b) :
    AllInField f (xorLists a b) := fun c hc => by
  obtain ⟨i, hi, rfl⟩ := List.mem_iff_getElem.mp hc
  simp only [Machine.xorLists, List.getElem_zipWith]
  exact (ha _ (List.getElem_mem _)).xor (hb _ (List.getElem_mem _))

theorem polyAdd_allInField {f : ActiveField} {a b : PolyVal} (ha : AllInField f a) (hb : AllInField f b) :
    AllInField f (polyAdd a b) :=
  (((AllInField.zeros f _).append ha).xorLists ((AllInField.zeros f _).append hb)).normalize

theorem polyAdd_normalized {a b : PolyVal} (ha : a ≠ []) : Normalized (polyAdd a b) := by
  have hlen := List.length_pos_iff.mpr ha
  refine normalizePoly_normalized (List.ne_nil_of_length_pos ?_)
  simp only [xorLists_length, List.length_append, zeros_length]
  omega

theorem polyAdd_ok {f : ActiveField} {a b : PolyVal} (ha : PolyOk f a) (hb : PolyOk f b) : PolyOk f (polyAdd a b) := by
  obtain ⟨⟨hne, -⟩, hla, hea⟩ := ha
  obtain ⟨-, hlb, heb⟩ := hb
  exact ⟨polyAdd_normalized hne, (polyAdd_length_le a b).trans (max_le hla hlb), polyAdd_allInField hea heb⟩

theorem polyOk_zero (f : ActiveField) : PolyOk f [0] := ⟨normalized_zero, by decide, AllInField.zeros f 1⟩

theorem normalizePoly_ok {f : ActiveField} {c : PolyVal} (hne : c ≠ []) (hl : c.length ≤ Config.nmax) (hc : AllInField f c) :
    PolyOk f (normalizePoly c) :=
  ⟨normalizePoly_normalized hne, (normalizePoly_length_le c).trans hl, hc.normalize⟩

/-- Where two lists of one length agree in their leading coefficient, the sum is zero or shorter. -/
theorem polyAdd_cancels (x : Elem) {a b : PolyVal} (h : a.length = b.length) :
    isZero (polyAdd (x :: a) (x :: b)) = true ∨ (polyAdd (x :: a) (x :: b)).length ≤ a.length := by
  have hsum : polyAdd (x :: a) (x :: b) = normalizePoly (0 :: xorLists a b) := by
    simp [polyAdd, zeros, xorLists, h]
  rw [hsum]
  by_cases hnil : xorLists a b = []
  · exact .inl (by rw [hnil]; rfl)
  · rw [normalizePoly_zero_cons hnil]
    exact .inr ((normalizePoly_length_le _).trans (by simp [h]))

/-! ### Products and division in a configured field -/

section
variable {f : ActiveField} (hf : f.Valid)
include hf

theorem ActiveField.Valid.allInField_map_gfMul (p : PolyVal) (g h : Elem → Elem) :
    AllInField f (p.map fun x => gfMul f (g x) (h x)) := fun c hc => by
  obtain ⟨x, -, rfl⟩ := List.mem_map.mp hc
  exact hf.gfMul_inField _ _

theorem ActiveField.Valid.convolve_allInField (a b : PolyVal) : AllInField f (convolve f a b) := by
  induction a with
  | nil => exact AllInField.zeros f _
  | cons x rest ih =>
    exact ((hf.allInField_map_gfMul b (fun _ => x) id).append (AllInField.zeros f _)).xorLists (.cons (InField.zero f) ih)

/-- POLY_MUL's product is a good polynomial when it fits (R136, R143). -/
theorem ActiveField.Valid.polyMul_ok {a b : PolyVal} (ha : a ≠ []) (hb : b ≠ [])
    (hl : (polyMul f a b).length ≤ Config.nmax) : PolyOk f (polyMul f a b) := by
  unfold polyMul at hl ⊢
  split
  · exact polyOk_zero f
  · next hz =>
    rw [if_neg hz] at hl
    have hne : convolve f a b ≠ [] := List.ne_nil_of_length_pos (by
      have := List.length_pos_iff.mpr ha
      have := List.length_pos_iff.mpr hb
      rw [convolve_length f a b hb]
      omega)
    exact ⟨normalizePoly_normalized hne, hl, (hf.convolve_allInField a b).normalize⟩

/-- POLY_MULMONO's product is a good polynomial when it is zero or fits (R135, R144). -/
theorem ActiveField.Valid.polyMulmono_ok {p : PolyVal} (hp : p ≠ []) (d : Nat) (c : Elem)
    (hl : ¬ (c ≠ 0 ∧ isZero p = false ∧ Config.nmax < p.length + d)) : PolyOk f (polyMulmono f p d c) := by
  unfold polyMulmono
  split
  · exact polyOk_zero f
  · next hz =>
    obtain ⟨hc, hpz⟩ := not_or.mp hz
    have hfit : p.length + d ≤ Config.nmax := not_lt.mp fun h => hl ⟨hc, by simpa using hpz, h⟩
    exact normalizePoly_ok (by simp [hp]) (by simpa using hfit)
      ((hf.allInField_map_gfMul p id fun _ => c).append (AllInField.zeros f d))

end

/-! ### The division loop (R137) -/

/-- The quotient after one iteration from quotient `q` and remainder `r`. -/
def quotientStep (f : ActiveField) (b q r : PolyVal) : PolyVal :=
  polyAdd q (normalizePoly (gfDiv f (r.headD 0) (b.headD 0) :: zeros (deg r - deg b)))

/-- The remainder after one iteration from remainder `r`. -/
def remainderStep (f : ActiveField) (b r : PolyVal) : PolyVal :=
  polyAdd r (polyMulmono f b (deg r - deg b) (gfDiv f (r.headD 0) (b.headD 0)))

theorem divLoop_step (f : ActiveField) {b r : PolyVal} (n : Nat) (q : PolyVal) (hd : deg b ≤ deg r) (hz : isZero r = false) :
    divLoop f b (b.headD 0) (n + 1) q r = divLoop f b (b.headD 0) n (quotientStep f b q r) (remainderStep f b r) :=
  if_pos ⟨hd, hz⟩

/-- A remainder that is zero or of lower degree than the divisor ends the loop. -/
theorem divLoop_stop (f : ActiveField) {b r : PolyVal} (n : Nat) (q : PolyVal) (h : isZero r = true ∨ deg r < deg b) :
    divLoop f b (b.headD 0) n q r = (q, r) := by
  cases n with
  | zero => rfl
  | succ n =>
    refine if_neg fun ⟨hd, hz⟩ => ?_
    rcases h with h | h
    · exact absurd (hz.symm.trans h) (by decide)
    · omega

section
variable {f : ActiveField} (hf : f.Valid)
include hf

theorem ActiveField.Valid.remainderStep_ok {b r : PolyVal} (hb : b ≠ []) (hr : PolyOk f r) (hd : deg b ≤ deg r) :
    PolyOk f (remainderStep f b r) := by
  have hl := hr.2.1
  have hlb := List.length_pos_iff.mpr hb
  have hlr := List.length_pos_iff.mpr hr.1.1
  refine polyAdd_ok hr (hf.polyMulmono_ok hb _ _ ?_)
  rintro ⟨-, -, hbig⟩
  simp only [deg] at hd hbig
  omega

theorem ActiveField.Valid.quotientStep_ok {b q r : PolyVal} (hq : PolyOk f q) (hr : PolyOk f r) :
    PolyOk f (quotientStep f b q r) := by
  obtain ⟨⟨hne, -⟩, hl, -⟩ := hr
  have hlr := List.length_pos_iff.mpr hne
  refine polyAdd_ok hq (normalizePoly_ok (by simp) ?_ (.cons (hf.gfMul_inField _ _) (AllInField.zeros f _)))
  simp only [List.length_cons, zeros_length, deg]
  omega

theorem ActiveField.Valid.divLoop_ok {b : PolyVal} (hb : b ≠ []) (n : Nat) {q r : PolyVal} (hq : PolyOk f q)
    (hr : PolyOk f r) : PolyOk f (divLoop f b (b.headD 0) n q r).1 ∧ PolyOk f (divLoop f b (b.headD 0) n q r).2 := by
  induction n generalizing q r with
  | zero => exact ⟨hq, hr⟩
  | succ n ih =>
    by_cases hgo : deg b ≤ deg r ∧ isZero r = false
    · obtain ⟨hd, hz⟩ := hgo
      rw [divLoop_step f n q hd hz]
      exact ih (hf.quotientStep_ok hq hr) (hf.remainderStep_ok hb hr hd)
    · rw [divLoop, if_neg hgo]
      exact ⟨hq, hr⟩

/-- Quotient and remainder of good polynomials are good ones. -/
theorem ActiveField.Valid.polyDivmod_ok {a b : PolyVal} (ha : PolyOk f a) (hb : b ≠ []) :
    PolyOk f (polyDivmod f a b).1 ∧ PolyOk f (polyDivmod f a b).2 :=
  hf.divLoop_ok hb _ (polyOk_zero f) ha

/-- An iteration cancels the leading coefficient: the remainder becomes zero or its degree falls. -/
theorem ActiveField.Valid.remainderStep_shrinks {b r : PolyVal} (hb : PolyOk f b) (hbz : isZero b = false) (hr : PolyOk f r)
    (hrz : isZero r = false) (hd : deg b ≤ deg r) :
    isZero (remainderStep f b r) = true ∨ deg (remainderStep f b r) < deg r := by
  obtain ⟨b₀, bs, rfl, hb₀⟩ := hb.1.eq_cons hbz
  obtain ⟨r₀, rs, rfl, hr₀⟩ := hr.1.eq_cons hrz
  have hcancel : gfMul f b₀ (gfDiv f r₀ b₀) = r₀ := by
    rw [gfMul_comm]
    exact hf.gfMul_gfDiv (hr.2.2 _ List.mem_cons_self) (hb.2.2 _ List.mem_cons_self) hb₀
  have hscale : gfDiv f r₀ b₀ ≠ 0 := fun h => hr₀ (by rw [← hcancel, h, gfMul_zero_right])
  have hlen : bs.length ≤ rs.length := by simpa [deg] using hd
  have hmono : polyMulmono f (b₀ :: bs) (rs.length - bs.length) (gfDiv f r₀ b₀) =
      r₀ :: (bs.map (fun x => gfMul f x (gfDiv f r₀ b₀)) ++ zeros (rs.length - bs.length)) := by
    have hnz : ¬ (gfDiv f r₀ b₀ = 0 ∨ isZero (b₀ :: bs) = true) := not_or.mpr ⟨hscale, by rw [hbz]; decide⟩
    rw [polyMulmono, if_neg hnz, List.map_cons, hcancel, List.cons_append, normalizePoly_of_head hr₀]
  have hstep : remainderStep f (b₀ :: bs) (r₀ :: rs) =
      polyAdd (r₀ :: rs) (polyMulmono f (b₀ :: bs) (rs.length - bs.length) (gfDiv f r₀ b₀)) := rfl
  have hne : remainderStep f (b₀ :: bs) (r₀ :: rs) ≠ [] := (hf.remainderStep_ok hb.1.1 hr hd).1.1
  rw [hstep, hmono] at hne ⊢
  refine (polyAdd_cancels r₀ (by simp; omega)).imp_right fun hshort => ?_
  have := List.length_pos_iff.mpr hne
  simp only [deg, List.length_cons] at this hshort ⊢
  omega

/-- With as many iterations as R137 allows, the loop ends in a reduced remainder. -/
theorem ActiveField.Valid.divLoop_reduced {b : PolyVal} (hb : PolyOk f b) (hbz : isZero b = false) (n : Nat) {q r : PolyVal}
    (hr : PolyOk f r) (hn : deg r < deg b + n) :
    isZero (divLoop f b (b.headD 0) n q r).2 = true ∨ deg (divLoop f b (b.headD 0) n q r).2 < deg b := by
  induction n generalizing q r with
  | zero => exact .inr hn
  | succ n ih =>
    by_cases hgo : deg b ≤ deg r ∧ isZero r = false
    · obtain ⟨hd, hz⟩ := hgo
      rw [divLoop_step f n q hd hz]
      rcases hf.remainderStep_shrinks hb hbz hr hz hd with hzero | hlt
      · rw [divLoop_stop f n _ (.inl hzero)]
        exact .inl hzero
      · exact ih (hf.remainderStep_ok hb.1.1 hr hd) (by omega)
    · have hstop : isZero r = true ∨ deg r < deg b := by
        rcases not_and_or.mp hgo with h | h
        · exact .inr (not_le.mp h)
        · exact .inl (by simpa using h)
      rw [divLoop_stop f _ q hstop]
      exact hstop

/-- R137: the remainder is zero or of lower degree than the divisor. -/
theorem ActiveField.Valid.polyDivmod_reduced {a b : PolyVal} (ha : PolyOk f a) (hb : PolyOk f b) (hbz : isZero b = false) :
    isZero (polyDivmod f a b).2 = true ∨ deg (polyDivmod f a b).2 < deg b :=
  hf.divLoop_reduced hb hbz _ ha (by omega)

/-! ### Generators and the cache (R39, R170, R171) -/

/-- The product with a monic linear factor keeps a leading 1 and adds one coefficient. -/
theorem ActiveField.Valid.polyMul_linear_monic (p : PolyVal) (x : Elem) :
    ∃ q, polyMul f (1 :: p) [1, x] = 1 :: q ∧ q.length = p.length + 1 := by
  have hhead : gfMul f 1 1 ^^^ 0 = 1 := by rw [hf.gfMul_one hf.one_inField]; rfl
  have hconv : convolve f (1 :: p) [1, x] = 1 :: xorLists ([gfMul f 1 x] ++ zeros p.length) (convolve f p [1, x]) :=
    congrArg₂ List.cons hhead rfl
  have hz : ¬ (isZero (1 :: p) || isZero [1, x]) = true := by
    rw [isZero_of_head (by decide), isZero_of_head (by decide)]
    decide
  refine ⟨xorLists ([gfMul f 1 x] ++ zeros p.length) (convolve f p [1, x]), ?_, ?_⟩
  · rw [polyMul, if_neg hz, hconv, normalizePoly_of_head (by decide)]
  · rw [xorLists_length, convolve_length f p [1, x] (by simp)]
    simp only [List.length_append, List.length_cons, List.length_nil, zeros_length]
    omega

theorem ActiveField.Valid.generator_monic (d : Nat) : ∃ q, generator f d = 1 :: q ∧ q.length = d := by
  induction d with
  | zero => exact ⟨[], rfl, rfl⟩
  | succ d ih =>
    obtain ⟨p, hp, hl⟩ := ih
    obtain ⟨q, hq, hlq⟩ := hf.polyMul_linear_monic p (gfExp f (d + f.abase.toNat))
    exact ⟨q, by rw [generator, hp, hq], by rw [hlq, hl]⟩

theorem ActiveField.Valid.generator_length (d : Nat) : (generator f d).length = d + 1 := by
  obtain ⟨q, hq, hl⟩ := hf.generator_monic d
  rw [hq, List.length_cons, hl]

theorem ActiveField.Valid.generator_not_isZero (d : Nat) : isZero (generator f d) = false := by
  obtain ⟨q, hq, -⟩ := hf.generator_monic d
  rw [hq, isZero_of_head (by decide)]

/-- g_d is a good polynomial for every degree the cache holds. -/
theorem ActiveField.Valid.generator_ok {d : Nat} (hd : d < Config.nmax) : PolyOk f (generator f d) := by
  induction d with
  | zero => exact ⟨⟨by simp [generator], .inr (by simp [generator])⟩, hd, AllInField.cons hf.one_inField (AllInField.zeros f 0)⟩
  | succ d ih =>
    refine hf.polyMul_ok (ih (by omega)).1.1 (by simp) ?_
    change (generator f (d + 1)).length ≤ _
    rw [hf.generator_length]
    exact hd

end

/-- An extension by R171 goes on with the generators of R170. -/
theorem extendCache_generators (f : ActiveField) (n : Nat) {cs : List PolyVal} (hpos : 1 ≤ cs.length)
    (hc : ∀ d, d < cs.length → cs[d]? = some (generator f d)) :
    ∀ d, d < (extendCache f n cs).length → (extendCache f n cs)[d]? = some (generator f d) := by
  induction n generalizing cs with
  | zero => exact hc
  | succ n ih =>
    refine ih (by simp) fun d hd => ?_
    rw [List.length_append, List.length_singleton] at hd
    rcases Nat.lt_or_ge d cs.length with h | h
    · rw [List.getElem?_append_left h, hc d h]
    · obtain rfl : d = cs.length := by omega
      obtain ⟨k, hk⟩ : ∃ k, cs.length = k + 1 := ⟨cs.length - 1, by omega⟩
      rw [List.getElem?_concat_length, hk, Nat.add_sub_cancel, hc k (by omega)]
      rfl

theorem buildGenerator_eq (f : ActiveField) {cs : List PolyVal} (hpos : 1 ≤ cs.length)
    (hc : ∀ d, d < cs.length → cs[d]? = some (generator f d)) (d : Nat) : buildGenerator f cs d = generator f d := by
  have hd : d < (cacheFor f cs d).length := by rw [cacheFor_length]; omega
  rw [buildGenerator, cacheFor, extendCache_generators f _ hpos hc d hd, Option.getD_some]

/-- R173: with a cached or new generator there are exactly `ec` EC words. -/
theorem ActiveField.Valid.ecWords_length {f : ActiveField} (hf : f.Valid) {data : PolyVal} {ec : Nat} (hec : 1 ≤ ec)
    (hne : data ≠ []) (hfit : data.length + ec ≤ Config.nmax) : (ecWords f data (generator f ec) ec).length = ec := by
  have hlen := List.length_pos_iff.mpr hne
  have hnorm := normalizePoly_length_le data
  have hsh : PolyOk f (polyMulmono f (normalizePoly data) ec 1) :=
    hf.polyMulmono_ok (normalizePoly_ne_nil hne) ec 1 fun ⟨_, _, h⟩ => by omega
  have hrem : (polyDivmod f (polyMulmono f (normalizePoly data) ec 1) (generator f ec)).2.length ≤ ec := by
    rcases hf.polyDivmod_reduced hsh (hf.generator_ok (by omega)) (hf.generator_not_isZero ec) with hz | hlt
    · rw [beq_iff_eq.mp hz]
      exact hec
    · have hg := hf.generator_length ec
      simp only [deg] at hlt
      omega
  simp only [ecWords, List.length_append, zeros_length]
  omega

end Sys2Proof.Machine

/-! ## What a command can do: one inversion lemma per command -/

namespace Sys2Proof.Machine

/-! ### How a command's pseudocode ends -/

/-- What is known of a piece of pseudocode: the codes its errors have, and what holds of the value it answers. -/
def Ends {α : Type} (es : List ErrCode) (x : Except Stop α) (Q : α → Prop) : Prop :=
  (∀ e, x = .error (.error e) → e ∈ es) ∧ ∀ a, x = .ok a → Q a

section
variable {α β : Type} {es : List ErrCode} {Q : α → Prop} {R : β → Prop}

theorem Ends.ok {a : α} (h : Q a) : Ends es (.ok a) Q :=
  ⟨fun _ he => (nomatch he), fun _ hb => Except.ok.inj hb ▸ h⟩

theorem Ends.error {e : ErrCode} (h : e ∈ es) : Ends es (.error (.error e)) Q :=
  ⟨fun _ he => by cases he; exact h, fun _ hb => (nomatch hb)⟩

theorem Ends.fault (f : Fault) : Ends es (.error (.fault f)) Q :=
  ⟨fun _ he => (nomatch he), fun _ hb => (nomatch hb)⟩

theorem Ends.bind {x : Except Stop α} {k : α → Except Stop β} (hx : Ends es x Q) (hk : ∀ a, Q a → Ends es (k a) R) :
    Ends es (x >>= k) R := by
  obtain ⟨herr, hok⟩ := hx
  refine ⟨fun e h => ?_, fun b h => ?_⟩
  · rcases bind_eq_error h with h | ⟨a, ha, h⟩
    · exact herr e h
    · exact (hk a (hok a ha)).1 e h
  · obtain ⟨a, ha, h⟩ := bind_eq_ok h
    exact (hk a (hok a ha)).2 b h

theorem ends_raiseIf (c : Prop) [Decidable c] {e : ErrCode} (he : e ∈ es := by simp [Instr.mayRaise]) :
    Ends es (raiseIf c e) fun _ => ¬ c := by
  rcases raiseIf_cases c e with ⟨hc, h⟩ | ⟨-, h⟩ <;> rw [h]
  · exact .ok hc
  · exact .error he

/-- A check that passes raises nothing, whatever its code. -/
theorem ends_raiseIf_passed {c : Prop} [Decidable c] (hc : ¬ c) (e : ErrCode) : Ends es (raiseIf c e) fun _ => ¬ c := by
  rw [raiseIf_neg hc]
  exact .ok hc

theorem ends_requireField (s : State) (he : .noField ∈ es := by simp [Instr.mayRaise]) :
    Ends es (requireField s) fun _ => s.fieldValid = true := by
  rcases requireField_cases s with ⟨hf, h⟩ | ⟨-, h⟩ <;> rw [h]
  · exact .ok hf
  · exact .error he

theorem ends_requireRange (a n : Nat) (he : .capacity ∈ es := by simp [Instr.mayRaise]) :
    Ends es (requireRange a n) fun _ => a + n ≤ Config.nmax := by
  rcases requireRange_cases a n with ⟨hr, h⟩ | ⟨-, h⟩ <;> rw [h]
  · exact .ok hr
  · exact .error he

theorem ends_sourcePoly (s : State) (i : PReg) (he : .uninit ∈ es := by simp [Instr.mayRaise]) :
    Ends es (sourcePoly s i) fun p => s.polys[i] = some p := by
  rcases sourcePoly_cases s i with ⟨p, hp, h⟩ | ⟨-, h⟩ <;> rw [h]
  · exact .ok hp
  · exact .error he

theorem ends_elemOperand (f : ActiveField) (v : Word) (he : .range ∈ es := by simp [Instr.mayRaise]) :
    Ends es (elemOperand f v) fun x => x = v.setWidth 12 ∧ v.toNat < f.size := by
  rcases elemOperand_cases f v with ⟨hv, h⟩ | ⟨-, h⟩ <;> rw [h]
  · exact .ok ⟨rfl, hv⟩
  · exact .error he

theorem ends_memRead (m : Memory) (a n : Nat) : Ends es (memRead m a n) fun cs => cs.length = n := by
  rcases memRead_cases m a n with ⟨cs, h⟩ | ⟨k, -, -, h⟩ <;> rw [h]
  · exact .ok ((memRead_ok_iff m a n cs).mp h).1
  · exact .fault _

theorem ends_elemList (f : ActiveField) (cs : List Codeword) (he : .range ∈ es := by simp [Instr.mayRaise]) :
    Ends es (elemList f cs) fun p => p.length = cs.length ∧ AllInField f p := by
  rcases elemList_cases f cs with ⟨hall, h⟩ | ⟨-, h⟩ <;> rw [h]
  · refine .ok ⟨List.length_map _, fun c hc => ?_⟩
    obtain ⟨v, hv, rfl⟩ := List.mem_map.mp hc
    rw [InField, BitVec.toNat_setWidth]
    exact (Nat.mod_le _ _).trans_lt (hall v hv)
  · exact .error he

end

/-! ### What each command leaves when it completes well -/

/-- What a command other than GF_CFG that completes well has done to the state it started in, the latch and the status bits apart:
the state it leaves, and what its checks have made sure of. -/
def Effect (i : Instr) (s u : State) : Prop :=
  match i with
  | .gfCfg => False
  | .gfAdd | .gfMul | .gfDiv | .gfInv | .gfExp | .gfLog => ∃ v, u = s.setResult v
  | .polyCoef _ | .polyDeg _ | .polyIszero _ | .polyEval _ => ∃ v, u = s.setResult v
  | .polyLoad rd => ∃ cs, cs ≠ [] ∧ cs.length ≤ Config.nmax ∧ AllInField s.field cs ∧ u = s.setPoly rd (normalizePoly cs)
  | .polyStore rs1 => ∃ p v, s.polys[rs1] = some p ∧ (storeRange s p).start + (storeRange s p).count ≤ Config.nmax ∧
      u = (s.setCw (memWrite s.cw (storeRange s p).start (p.map toCodeword))).setResult v
  | .polyAdd rd rs1 rs2 => ∃ p q, s.polys[rs1] = some p ∧ s.polys[rs2] = some q ∧ u = s.setPoly rd (polyAdd p q)
  | .polyMul rd rs1 rs2 => ∃ p q, s.polys[rs1] = some p ∧ s.polys[rs2] = some q ∧
      (polyMul s.field p q).length ≤ Config.nmax ∧ u = s.setPoly rd (polyMul s.field p q)
  | .polyMulmono rd rs1 => ∃ p d c, s.polys[rs1] = some p ∧ ¬ (c ≠ 0 ∧ isZero p = false ∧ Config.nmax < p.length + d) ∧
      u = s.setPoly rd (polyMulmono s.field p d c)
  | .polyDiv rd re rs1 rs2 => ∃ p q, s.polys[rs1] = some p ∧ s.polys[rs2] = some q ∧
      u = (s.setPoly rd (polyDivmod s.field p q).1).setPoly re (polyDivmod s.field p q).2
  | .rsGen rd => ∃ d, d < Config.nmax ∧
      u = (s.setCache (cacheFor s.field s.cache d)).setPoly rd (buildGenerator s.field s.cache d)
  | .rsEncode => ∃ ec data, ec = s.operands.arg2.toNat ∧ 1 ≤ ec ∧ ec < s.operands.arg1.toNat ∧
      s.operands.arg0.toNat + s.operands.arg1.toNat ≤ Config.nmax ∧ data.length = s.operands.arg1.toNat - ec ∧
      u = (s.setCache (cacheFor s.field s.cache ec)).setCw (memWrite s.cw (encodeRange s).start
        ((ecWords s.field data (buildGenerator s.field s.cache ec) ec).map toCodeword))
  | .rsSynd => ∃ w v, (syndromeRange s).start + (syndromeRange s).count ≤ Config.nmax ∧
      u = (s.setCw (memWrite s.cw (syndromeRange s).start
        ((syndromes s.field w (syndromeRange s).count).map toCodeword))).setResult v

/-- The two ways a legal command other than GF_CFG takes `s` to `t`: it fails with a code of the table and changes the status bits
alone, or it completes well, and then a field is configured (R89, R200 to R203). -/
def Completes (i : Instr) (s t : State) : Prop :=
  (∃ e ∈ i.mayRaise, t = s.fail e) ∨ ∃ u, s.fieldValid = true ∧ Effect i s u ∧ t = u.complete

/-- A command ends as its pseudocode does. -/
theorem completes_of_ends {i : Instr} {s t : State} {x : Except Stop State} (h : finish s x = .next t)
    (hx : Ends i.mayRaise x fun u => s.fieldValid = true ∧ Effect i s u) : Completes i s t := by
  rcases finish_next h with ⟨u, hu, rfl⟩ | ⟨e, he, rfl⟩
  · obtain ⟨hf, heff⟩ := hx.2 u hu
    exact .inr ⟨u, hf, heff, rfl⟩
  · exact .inl ⟨e, hx.1 e he, rfl⟩

section
variable {s t : State}

theorem execGfAdd_next (h : execGfAdd s = .next t) : Completes .gfAdd s t :=
  completes_of_ends h <|
    (ends_requireField s).bind fun _ hf =>
    (ends_elemOperand _ _).bind fun _ _ =>
    (ends_elemOperand _ _).bind fun _ _ => .ok ⟨hf, _, rfl⟩

theorem execGfMul_next (h : execGfMul s = .next t) : Completes .gfMul s t :=
  completes_of_ends h <|
    (ends_requireField s).bind fun _ hf =>
    (ends_elemOperand _ _).bind fun _ _ =>
    (ends_elemOperand _ _).bind fun _ _ => .ok ⟨hf, _, rfl⟩

theorem execGfDiv_next (h : execGfDiv s = .next t) : Completes .gfDiv s t :=
  completes_of_ends h <|
    (ends_requireField s).bind fun _ hf =>
    (ends_elemOperand _ _).bind fun _ _ =>
    (ends_elemOperand _ _).bind fun _ _ =>
    (ends_raiseIf _).bind fun _ _ => .ok ⟨hf, _, rfl⟩

theorem execGfInv_next (h : execGfInv s = .next t) : Completes .gfInv s t :=
  completes_of_ends h <|
    (ends_requireField s).bind fun _ hf =>
    (ends_elemOperand _ _).bind fun _ _ =>
    (ends_raiseIf _).bind fun _ _ => .ok ⟨hf, _, rfl⟩

theorem execGfExp_next (h : execGfExp s = .next t) : Completes .gfExp s t :=
  completes_of_ends h <| (ends_requireField s).bind fun _ hf => .ok ⟨hf, _, rfl⟩

theorem execGfLog_next (h : execGfLog s = .next t) : Completes .gfLog s t :=
  completes_of_ends h <|
    (ends_requireField s).bind fun _ hf =>
    (ends_elemOperand _ _).bind fun _ _ =>
    (ends_raiseIf _).bind fun _ _ => .ok ⟨hf, _, rfl⟩

theorem execPolyLoad_next {rd : PReg} (h : execPolyLoad rd s = .next t) : Completes (.polyLoad rd) s t :=
  completes_of_ends h <|
    (ends_requireField s).bind fun _ hf =>
    (ends_raiseIf _).bind fun _ hn =>
    (ends_requireRange _ _).bind fun _ hr =>
    (ends_memRead _ _ _).bind fun ws hws =>
    (ends_elemList _ ws).bind fun cs ⟨hlen, hin⟩ =>
      .ok ⟨hf, cs, List.ne_nil_of_length_pos (by omega), by omega, hin, rfl⟩

theorem execPolyStore_next {rs1 : PReg} (h : execPolyStore rs1 s = .next t) : Completes (.polyStore rs1) s t :=
  completes_of_ends h <|
    (ends_requireField s).bind fun _ hf =>
    (ends_sourcePoly s rs1).bind fun p hp =>
    (ends_requireRange _ _).bind fun _ hr => .ok ⟨hf, p, _, hp, hr, rfl⟩

theorem execPolyAdd_next {rd rs1 rs2 : PReg} (h : execPolyAdd rd rs1 rs2 s = .next t) :
    Completes (.polyAdd rd rs1 rs2) s t :=
  completes_of_ends h <|
    (ends_requireField s).bind fun _ hf =>
    (ends_sourcePoly s rs1).bind fun p hp =>
    (ends_sourcePoly s rs2).bind fun q hq => .ok ⟨hf, p, q, hp, hq, rfl⟩

theorem execPolyMul_next {rd rs1 rs2 : PReg} (h : execPolyMul rd rs1 rs2 s = .next t) :
    Completes (.polyMul rd rs1 rs2) s t :=
  completes_of_ends h <|
    (ends_requireField s).bind fun _ hf =>
    (ends_sourcePoly s rs1).bind fun p hp =>
    (ends_sourcePoly s rs2).bind fun q hq =>
    (ends_raiseIf _).bind fun _ hl => .ok ⟨hf, p, q, hp, hq, not_lt.mp hl, rfl⟩

theorem execPolyMulmono_next {rd rs1 : PReg} (h : execPolyMulmono rd rs1 s = .next t) :
    Completes (.polyMulmono rd rs1) s t :=
  completes_of_ends h <|
    (ends_requireField s).bind fun _ hf =>
    (ends_sourcePoly s rs1).bind fun p hp =>
    (ends_elemOperand _ _).bind fun c _ =>
    (ends_raiseIf _).bind fun _ hl => .ok ⟨hf, p, _, c, hp, hl, rfl⟩

theorem execPolyDiv_next {rd re rs1 rs2 : PReg} (hne : rd ≠ re) (h : execPolyDiv rd re rs1 rs2 s = .next t) :
    Completes (.polyDiv rd re rs1 rs2) s t :=
  completes_of_ends h <|
    (ends_raiseIf_passed hne _).bind fun _ _ =>
    (ends_requireField s).bind fun _ hf =>
    (ends_sourcePoly s rs1).bind fun p hp =>
    (ends_sourcePoly s rs2).bind fun q hq =>
    (ends_raiseIf _).bind fun _ _ => .ok ⟨hf, p, q, hp, hq, rfl⟩

theorem execPolyCoef_next {rs1 : PReg} (h : execPolyCoef rs1 s = .next t) : Completes (.polyCoef rs1) s t :=
  completes_of_ends h <|
    (ends_requireField s).bind fun _ hf =>
    (ends_sourcePoly s rs1).bind fun _ _ => .ok ⟨hf, _, rfl⟩

theorem execPolyDeg_next {rs1 : PReg} (h : execPolyDeg rs1 s = .next t) : Completes (.polyDeg rs1) s t :=
  completes_of_ends h <|
    (ends_requireField s).bind fun _ hf =>
    (ends_sourcePoly s rs1).bind fun _ _ => .ok ⟨hf, _, rfl⟩

theorem execPolyIszero_next {rs1 : PReg} (h : execPolyIszero rs1 s = .next t) : Completes (.polyIszero rs1) s t :=
  completes_of_ends h <|
    (ends_requireField s).bind fun _ hf =>
    (ends_sourcePoly s rs1).bind fun _ _ => .ok ⟨hf, _, rfl⟩

theorem execPolyEval_next {rs1 : PReg} (h : execPolyEval rs1 s = .next t) : Completes (.polyEval rs1) s t :=
  completes_of_ends h <|
    (ends_requireField s).bind fun _ hf =>
    (ends_sourcePoly s rs1).bind fun _ _ =>
    (ends_elemOperand _ _).bind fun _ _ => .ok ⟨hf, _, rfl⟩

theorem execRsGen_next {rd : PReg} (h : execRsGen rd s = .next t) : Completes (.rsGen rd) s t :=
  completes_of_ends h <|
    (ends_requireField s).bind fun _ hf =>
    (ends_raiseIf _).bind fun _ hd => .ok ⟨hf, _, Nat.lt_succ_of_le (not_lt.mp hd), rfl⟩

theorem execRsEncode_next (h : execRsEncode s = .next t) : Completes .rsEncode s t :=
  completes_of_ends h <|
    (ends_requireField s).bind fun _ hf =>
    (ends_raiseIf _).bind fun _ hec =>
    (ends_raiseIf _).bind fun _ htot =>
    (ends_requireRange _ _).bind fun _ hr =>
    (ends_memRead _ _ _).bind fun ws hws =>
    (ends_elemList _ ws).bind fun data ⟨hlen, _⟩ =>
      .ok ⟨hf, _, data, rfl, Nat.one_le_iff_ne_zero.mpr hec, not_le.mp htot, hr, hlen.trans hws, rfl⟩

theorem execRsSynd_next (h : execRsSynd s = .next t) : Completes .rsSynd s t :=
  completes_of_ends h <|
    (ends_requireField s).bind fun _ hf =>
    (ends_raiseIf _).bind fun _ _ =>
    (ends_raiseIf _).bind fun _ _ =>
    (ends_requireRange _ _).bind fun _ _ =>
    (ends_requireRange _ _).bind fun _ hr =>
    (ends_memRead _ _ _).bind fun ws _ =>
    (ends_elemList _ ws).bind fun w _ => .ok ⟨hf, w, _, hr, rfl⟩

/-- What a legal command can do: GF_CFG apart, it fails or completes well as `Completes` says. -/
theorem exec_next {i : Instr} (hw : i.wellFormed = true) (hi : i ≠ .gfCfg) (h : exec i s = .next t) : Completes i s t := by
  cases i with
  | gfCfg => exact absurd rfl hi
  | gfAdd => exact execGfAdd_next h
  | gfMul => exact execGfMul_next h
  | gfDiv => exact execGfDiv_next h
  | gfInv => exact execGfInv_next h
  | gfExp => exact execGfExp_next h
  | gfLog => exact execGfLog_next h
  | polyLoad rd => exact execPolyLoad_next h
  | polyStore rs1 => exact execPolyStore_next h
  | polyAdd rd rs1 rs2 => exact execPolyAdd_next h
  | polyMul rd rs1 rs2 => exact execPolyMul_next h
  | polyMulmono rd rs1 => exact execPolyMulmono_next h
  | polyDiv rd re rs1 rs2 => exact execPolyDiv_next (bne_iff_ne.mp hw) h
  | polyCoef rs1 => exact execPolyCoef_next h
  | polyDeg rs1 => exact execPolyDeg_next h
  | polyIszero rs1 => exact execPolyIszero_next h
  | polyEval rs1 => exact execPolyEval_next h
  | rsGen rd => exact execRsGen_next h
  | rsEncode => exact execRsEncode_next h
  | rsSynd => exact execRsSynd_next h

/-- A POLY_DIV that names one register twice is E_ILLEGAL (R86; log 16). -/
theorem exec_illFormed {i : Instr} (hw : i.wellFormed = false) : exec i s = .next (s.fail .illegal) := by
  cases i with
  | polyDiv rd re rs1 rs2 =>
    have heq : rd = re := by simpa [Instr.wellFormed] using hw
    rw [exec, execPolyDiv, raiseIf_pos heq, bind_stop, finish_error]
  | _ => simp [Instr.wellFormed] at hw

/-- The two outcomes of GF_CFG (R101). -/
theorem execGfCfg_next (h : execGfCfg s = .next t) :
    (fieldOk s.operands.fieldM s.operands.fieldPoly = true ∧ t = ((s.discardField.setField (buildField s.operands.fieldM
      s.operands.fieldPoly s.operands.fieldBase)).setFieldValid true).complete) ∨
    (fieldOk s.operands.fieldM s.operands.fieldPoly = false ∧
      t = ((s.discardField.setField s.field.forgetTables).setFieldValid false).fail .fieldInvalid) := by
  unfold execGfCfg at h
  dsimp only at h
  split at h
  · next hok => exact .inl ⟨hok, (Host.Outcome.next.inj h).symm⟩
  · next hno => exact .inr ⟨Bool.eq_false_iff.mpr hno, (Host.Outcome.next.inj h).symm⟩

end
end Sys2Proof.Machine

/-! ## What the commands leave unchanged (R24, R26) -/

namespace Sys2Proof.Machine

theorem KeepsHostSide.fail (s : State) (e : ErrCode) : KeepsHostSide s (s.fail e) := ⟨rfl, rfl, rfl, rfl, rfl⟩

theorem sameMemory_refl (m : Memory) : SameMemory m m := fun _ => rfl

/-- Settles O57: a scalar command that completes well has written RESULT alone, and a failing one nothing. -/
theorem scalarCommandFrame : Obligations.ScalarCommandFrame := by
  intro s t r i hi h
  have hscalar : i.wellFormed = true ∧ i ≠ .gfCfg ∧ ∀ u, Effect i s u → ∃ v, u = s.setResult v := by
    simp only [List.mem_cons, List.not_mem_nil, or_false] at hi
    rcases hi with rfl | rfl | rfl | rfl | rfl | rfl | rfl | rfl | rfl | rfl <;>
      exact ⟨rfl, Instr.noConfusion, fun _ hu => hu⟩
  obtain ⟨hw, hne, heff⟩ := hscalar
  rcases exec_next hw hne h with ⟨e, -, rfl⟩ | ⟨u, -, hu, rfl⟩
  · exact ⟨rfl, rfl, rfl, rfl, sameMemory_refl _, rfl, KeepsHostSide.fail s e, fun _ => rfl⟩
  · obtain ⟨v, rfl⟩ := heff u hu
    exact ⟨rfl, rfl, rfl, rfl, sameMemory_refl _, rfl, ⟨rfl, rfl, rfl, rfl, rfl⟩, fun herr => (nomatch herr)⟩

/-- A command that writes polynomial registers leaves every register it does not name, and at most extends the cache. -/
theorem effect_polynomial {s u : State} {i : Instr} {rd re rs1 rs2 : PReg}
    (hi : i ∈ [Instr.polyLoad rd, .polyAdd rd rs1 rs2, .polyMul rd rs1 rs2, .polyMulmono rd rs1, .polyDiv rd re rs1 rs2,
      .rsGen rd]) (hu : Effect i s u) :
    ∃ ps cs, u = { s with polys := ps, cache := cs } ∧ s.cache <+: cs ∧ (i ≠ .rsGen rd → cs = s.cache) ∧
      ∀ j : PReg, j ≠ rd → (j ≠ re ∨ i ≠ .polyDiv rd re rs1 rs2) → ps[j] = s.polys[j] := by
  have hone : ∀ p, ∃ ps cs, s.setPoly rd p = { s with polys := ps, cache := cs } ∧ s.cache <+: cs ∧
      (i ≠ .rsGen rd → cs = s.cache) ∧ ∀ j : PReg, j ≠ rd → (j ≠ re ∨ i ≠ .polyDiv rd re rs1 rs2) → ps[j] = s.polys[j] :=
    fun p => ⟨_, _, rfl, List.prefix_rfl, fun _ => rfl, fun j hj _ => s.setPoly_get_other p hj⟩
  simp only [List.mem_cons, List.not_mem_nil, or_false] at hi
  rcases hi with rfl | rfl | rfl | rfl | rfl | rfl
  · obtain ⟨cs, -, -, -, rfl⟩ := hu
    exact hone _
  · obtain ⟨p, q, -, -, rfl⟩ := hu
    exact hone _
  · obtain ⟨p, q, -, -, -, rfl⟩ := hu
    exact hone _
  · obtain ⟨p, d, c, -, -, rfl⟩ := hu
    exact hone _
  · obtain ⟨p, q, -, -, rfl⟩ := hu
    refine ⟨_, _, rfl, List.prefix_rfl, fun _ => rfl, fun j hj hj' => ?_⟩
    have hre : j ≠ re := hj'.resolve_right fun h => h rfl
    exact ((s.setPoly rd _).setPoly_get_other _ hre).trans (s.setPoly_get_other _ hj)
  · obtain ⟨d, -, rfl⟩ := hu
    exact ⟨_, _, rfl, cacheFor_keeps _ _ d, fun h => absurd rfl h, fun j hj _ => s.setPoly_get_other _ hj⟩

/-- Settles O58: such a command that completes well has the effect above, and a failing one changes the status bits alone. -/
theorem polynomialCommandFrame : Obligations.PolynomialCommandFrame := by
  intro s t rd re rs1 rs2 i hi h
  have hends : (∃ e, t = s.fail e) ∨ ∃ u, Effect i s u ∧ t = u.complete := by
    cases hw : i.wellFormed with
    | false => exact .inl ⟨.illegal, Host.Outcome.next.inj (h.symm.trans (exec_illFormed hw))⟩
    | true =>
      have hne : i ≠ .gfCfg := by rintro rfl; simp at hi
      exact (exec_next hw hne h).imp (fun ⟨e, _, he⟩ => ⟨e, he⟩) fun ⟨u, _, hu⟩ => ⟨u, hu⟩
  rcases hends with ⟨e, rfl⟩ | ⟨u, hu, rfl⟩
  · exact ⟨fun _ _ _ => rfl, rfl, rfl, rfl, List.prefix_rfl, fun _ => rfl, sameMemory_refl _, rfl, KeepsHostSide.fail s e⟩
  · obtain ⟨ps, cs, rfl, hcache, hsame, hps⟩ := effect_polynomial hi hu
    exact ⟨hps, rfl, rfl, rfl, hcache, hsame, sameMemory_refl _, rfl, ⟨rfl, rfl, rfl, rfl, rfl⟩⟩

/-- The EC words of RS_ENCODE fill its write range exactly, in a state that meets the invariant (R173). -/
theorem State.Inv.ecWords_length {s : State} (h : s.Inv) (hf : s.fieldValid = true) {data : PolyVal} {ec total : Nat}
    (hec : 1 ≤ ec) (htot : ec < total) (hfit : total ≤ Config.nmax) (hdata : data.length = total - ec) :
    (ecWords s.field data (buildGenerator s.field s.cache ec) ec).length = ec := by
  have hne : data ≠ [] := List.ne_nil_of_length_pos (by omega)
  rw [buildGenerator_eq _ h.cacheSize.1 (h.cacheGenerators hf)]
  exact (h.fieldBuilt hf).ecWords_length hec hne (by omega)

/-- POLY_STORE, RS_ENCODE and RS_SYND write the buffer by one MemWrite that fills their write range (R76). -/
theorem effect_buffer {s u : State} (hinv : s.Inv) (hf : s.fieldValid = true) {i : Instr} {rs1 : PReg}
    (hi : i ∈ [Instr.polyStore rs1, .rsEncode, .rsSynd]) (hu : Effect i s u) :
    ∃ vs cs v, u = { s with cw := memWrite s.cw (writeRange i s).start vs, cache := cs, result := v } ∧
      vs.length = (writeRange i s).count ∧ s.cache <+: cs ∧ (i ≠ .rsEncode → cs = s.cache) ∧ (i = .rsEncode → v = s.result) := by
  simp only [List.mem_cons, List.not_mem_nil, or_false] at hi
  rcases hi with rfl | rfl | rfl
  · obtain ⟨p, v, hp, -, rfl⟩ := hu
    have hrange : writeRange (.polyStore rs1) s = storeRange s p := by rw [writeRange, hp, Option.getD_some]
    rw [hrange]
    exact ⟨_, _, v, rfl, List.length_map _, List.prefix_rfl, fun _ => rfl, fun h => (nomatch h)⟩
  · obtain ⟨ec, data, rfl, hec, htot, hr, hdata, rfl⟩ := hu
    refine ⟨_, _, _, rfl, ?_, cacheFor_keeps _ _ _, fun h => absurd rfl h, fun _ => rfl⟩
    rw [List.length_map, hinv.ecWords_length hf hec htot (by omega) hdata]
    simp only [writeRange, encodeRange]
    omega
  · obtain ⟨w, v, -, rfl⟩ := hu
    exact ⟨_, _, v, rfl, by rw [List.length_map, syndromes_length]; rfl, List.prefix_rfl, fun _ => rfl,
      fun h => (nomatch h)⟩

/-- Settles O59: the one MemWrite of such a command fills its write range, and a failing command does none. -/
theorem bufferCommandFrame : Obligations.BufferCommandFrame := by
  intro s t rs1 hinv i hi h
  have hform : i.wellFormed = true ∧ i ≠ .gfCfg := by
    simp only [List.mem_cons, List.not_mem_nil, or_false] at hi
    rcases hi with rfl | rfl | rfl <;> exact ⟨rfl, Instr.noConfusion⟩
  rcases exec_next hform.1 hform.2 h with ⟨e, -, rfl⟩ | ⟨u, hf, hu, rfl⟩
  · exact ⟨fun _ _ => rfl, fun _ => sameMemory_refl _, rfl, rfl, rfl, List.prefix_rfl, fun _ => rfl, fun _ => rfl, rfl,
      KeepsHostSide.fail s e⟩
  · obtain ⟨vs, cs, v, rfl, hlen, hcache, hsame, hres⟩ := effect_buffer hinv hf hi hu
    have hout : SameOutside (writeRange i s) s.cw (memWrite s.cw (writeRange i s).start vs) := by
      have := memWrite_sameOutside s.cw (writeRange i s).start vs
      rwa [hlen] at this
    exact ⟨hout, fun herr => (nomatch herr), rfl, rfl, rfl, hcache, hsame, hres, rfl, ⟨rfl, rfl, rfl, rfl, rfl⟩⟩

/-! ### Invalid sources (R89) -/

theorem sourcePoly_bind_none {α : Type} {s : State} {r : PReg} (h : s.polys[r] = none) (k : PolyVal → Except Stop α) :
    (sourcePoly s r >>= k) = .error (.error .uninit) := by
  rw [sourcePoly_none h, bind_stop]

/-- Of two sources read one after the other, one that is invalid stops the command, first or second. -/
theorem sourcePoly_pair_none {α : Type} {s : State} {r r₁ r₂ : PReg} (hr : r ∈ [r₁, r₂]) (h : s.polys[r] = none)
    (k : PolyVal → PolyVal → Except Stop α) :
    (sourcePoly s r₁ >>= fun a => sourcePoly s r₂ >>= k a) = .error (.error .uninit) := by
  rcases List.mem_pair.mp hr with rfl | rfl
  · exact sourcePoly_bind_none h _
  · rcases sourcePoly_cases s r₁ with ⟨p, -, heq⟩ | ⟨-, heq⟩
    · rw [heq, bind_okay, sourcePoly_bind_none h]
    · rw [heq, bind_stop]

/-- Settles O25: the preamble reads the sources before a command's own checks. -/
theorem invalidSourceFails : Obligations.InvalidSourceFails := by
  intro s i hw hf ⟨r, hr, hnone⟩
  have hfield := requireField_valid hf
  cases i with
  | gfCfg | gfAdd | gfMul | gfDiv | gfInv | gfExp | gfLog => exact absurd hr List.not_mem_nil
  | polyLoad _ | rsGen _ | rsEncode | rsSynd => exact absurd hr List.not_mem_nil
  | polyStore rs1 | polyMulmono _ rs1 | polyCoef rs1 | polyDeg rs1 | polyIszero rs1 | polyEval rs1 =>
    obtain rfl := List.mem_singleton.mp hr
    simp only [exec, execPolyStore, execPolyMulmono, execPolyCoef, execPolyDeg, execPolyIszero, execPolyEval, hfield,
      bind_okay, sourcePoly_bind_none hnone, finish_error]
  | polyAdd _ rs1 rs2 | polyMul _ rs1 rs2 =>
    simp only [exec, execPolyAdd, execPolyMul, hfield, bind_okay, sourcePoly_pair_none hr hnone, finish_error]
  | polyDiv rd re rs1 rs2 =>
    simp only [exec, execPolyDiv, raiseIf_neg (bne_iff_ne.mp hw), hfield, bind_okay, sourcePoly_pair_none hr hnone,
      finish_error]

end Sys2Proof.Machine

/-! ## Every step keeps the machine's invariant -/

namespace Sys2Proof.Machine

/-! ### The bytes of the codeword buffer -/

/-- Only bytes of codeword entries are held (R62). -/
def CwInBuffer (m : Memory) : Prop := ∀ c ∈ m, Config.cwBase ≤ c.1 ∧ c.1 < Config.windowBytes ∧ c.1 % 4 < 2

theorem cwInBuffer_cwSet {m : Memory} (h : CwInBuffer m) {a : Nat} (ha : a < Config.nmax) (v : Codeword) :
    CwInBuffer (cwSet m a v) := by
  intro c hc
  rcases mem_of_mem_memSet hc with rfl | hc
  · simp only [entryOffset, Config.windowBytes, Config.cwBase, Config.nmax] at *
    omega
  rcases mem_of_mem_memSet hc with rfl | hc
  · simp only [entryOffset, Config.windowBytes, Config.cwBase, Config.nmax] at *
    omega
  · exact h c hc

theorem cwInBuffer_memWrite {m : Memory} (h : CwInBuffer m) {a : Nat} (vs : List Codeword)
    (hfit : a + vs.length ≤ Config.nmax) : CwInBuffer (memWrite m a vs) := by
  induction vs generalizing m a with
  | nil => exact h
  | cons v vs ih =>
    rw [List.length_cons] at hfit
    exact ih (cwInBuffer_cwSet h (by omega) v) (by omega)

theorem cwInBuffer_memScribble {m : Memory} (h : CwInBuffer m) {a n : Nat} (draw : Nat)
    (hfit : n = 0 ∨ a + n ≤ Config.nmax) : CwInBuffer (memScribble m a draw n) := by
  induction n generalizing m a draw with
  | zero => exact h
  | succ n ih => exact ih (cwInBuffer_cwSet h (by omega) _) _ (by omega)

/-! ### The invariant through each update of the state -/

section
variable {s : State} (h : s.Inv)
include h

theorem State.Inv.respond (r : Response) : (s.respond r).Inv := { h with }
theorem State.Inv.advance (n : Nat) : (s.advance n).Inv := { h with }
theorem State.Inv.setPending (es : List Event) : (s.setPending es).Inv := { h with }
theorem State.Inv.setRegs (r : OperandRegs) : (s.setRegs r).Inv := { h with }
theorem State.Inv.setOverrun : s.setOverrun.Inv := { h with }
theorem State.Inv.clearOverrun : s.clearOverrun.Inv := { h with }
theorem State.Inv.setResult (v : Word) : (s.setResult v).Inv := { h with }

/-- Acceptance clears ERR and ERRCODE (R208). -/
theorem State.Inv.accept (w : Word) : (s.accept w).Inv :=
  { h with errAgrees := by simp, busyClear := fun _ => rfl }

theorem State.Inv.complete : s.complete.Inv :=
  { h with errAgrees := by simp, busyClear := fun _ => rfl }

theorem State.Inv.fail {e : ErrCode} (he : e ≠ .noError) : (s.fail e).Inv :=
  { h with errAgrees := by simpa using he, busyClear := fun hb => (nomatch hb) }

theorem State.Inv.setPoly (hf : s.fieldValid = true) (i : PReg) {p : PolyVal} (hp : PolyOk s.field p) : (s.setPoly i p).Inv :=
  { h with
    polysOk := fun j q hq => by
      rcases eq_or_ne j i with rfl | hj
      · rw [State.setPoly_get_same] at hq
        cases hq
        exact ⟨hf, hp⟩
      · rw [State.setPoly_get_other _ _ hj] at hq
        exact h.polysOk j q hq }

theorem State.Inv.setCw {m : Memory} (hwf : Memory.wf m = true) (hm : CwInBuffer m) : (s.setCw m).Inv :=
  { h with cwSorted := hwf, cwInBuffer := hm }

theorem State.Inv.setCw_memWrite {a : Nat} (vs : List Codeword) (hfit : a + vs.length ≤ Config.nmax) :
    (s.setCw (memWrite s.cw a vs)).Inv :=
  h.setCw (wf_memWrite a vs h.cwSorted) (cwInBuffer_memWrite h.cwInBuffer vs hfit)

/-- R171: the cache grows by generators, to at most NMAX of them. -/
theorem State.Inv.setCache_cacheFor (hf : s.fieldValid = true) {d : Nat} (hd : d < Config.nmax) :
    (s.setCache (cacheFor s.field s.cache d)).Inv :=
  { h with
    cacheSize := by
      have := h.cacheSize
      simp only [State.setCache_cache, cacheFor_length]
      omega
    cacheGenerators := fun _ => extendCache_generators _ _ h.cacheSize.1 (h.cacheGenerators hf)
    cacheSeeded := fun hf' => absurd (hf.symm.trans hf') (by decide) }

/-- A discarded field leaves no register and the cache's seed; a new field, if any, is a built one (R101). -/
theorem State.Inv.newField {f : ActiveField} {b : Bool} (hf : b = true → f.Valid) :
    ((s.discardField.setField f).setFieldValid b).Inv :=
  { h with
    fieldBuilt := hf
    polysOk := fun i p hp => by simp at hp
    cacheSize := (by decide : 1 ≤ 1 ∧ 1 ≤ Config.nmax)
    cacheGenerators := fun _ d hd => by
      obtain rfl : d = 0 := Nat.lt_one_iff.mp hd
      rfl
    cacheSeeded := fun _ => rfl }

end

/-! ### Commands -/

theorem noError_not_mem_mayRaise (i : Instr) : .noError ∉ i.mayRaise := by
  cases i <;> simp [Instr.mayRaise]

/-- What a good register holds. -/
theorem State.Inv.polyOk {s : State} (h : s.Inv) {i : PReg} {p : PolyVal} (hp : s.polys[i] = some p) : PolyOk s.field p :=
  (h.polysOk i p hp).2

/-- Every command that completes well leaves good values (R22, R39, R40). -/
theorem State.Inv.effect {s u : State} (h : s.Inv) (hf : s.fieldValid = true) {i : Instr} (hu : Effect i s u) : u.Inv := by
  have hv := h.fieldBuilt hf
  cases i with
  | gfCfg => exact hu.elim
  | gfAdd | gfMul | gfDiv | gfInv | gfExp | gfLog | polyCoef _ | polyDeg _ | polyIszero _ | polyEval _ =>
    obtain ⟨v, rfl⟩ := hu
    exact h.setResult v
  | polyLoad rd =>
    obtain ⟨cs, hne, hl, hin, rfl⟩ := hu
    exact h.setPoly hf rd (normalizePoly_ok hne hl hin)
  | polyAdd rd rs1 rs2 =>
    obtain ⟨p, q, hp, hq, rfl⟩ := hu
    exact h.setPoly hf rd (polyAdd_ok (h.polyOk hp) (h.polyOk hq))
  | polyMul rd rs1 rs2 =>
    obtain ⟨p, q, hp, hq, hl, rfl⟩ := hu
    exact h.setPoly hf rd (hv.polyMul_ok (h.polyOk hp).1.1 (h.polyOk hq).1.1 hl)
  | polyMulmono rd rs1 =>
    obtain ⟨p, d, c, hp, hl, rfl⟩ := hu
    exact h.setPoly hf rd (hv.polyMulmono_ok (h.polyOk hp).1.1 d c hl)
  | polyDiv rd re rs1 rs2 =>
    obtain ⟨p, q, hp, hq, rfl⟩ := hu
    obtain ⟨hquot, hrem⟩ := hv.polyDivmod_ok (h.polyOk hp) (h.polyOk hq).1.1
    exact (h.setPoly hf rd hquot).setPoly hf re hrem
  | rsGen rd =>
    obtain ⟨d, hd, rfl⟩ := hu
    refine (h.setCache_cacheFor hf hd).setPoly hf rd ?_
    rw [buildGenerator_eq _ h.cacheSize.1 (h.cacheGenerators hf)]
    exact hv.generator_ok hd
  | polyStore rs1 =>
    obtain ⟨p, v, -, hr, rfl⟩ := hu
    exact (h.setCw_memWrite _ (by rw [List.length_map]; exact hr)).setResult v
  | rsEncode =>
    obtain ⟨ec, data, rfl, hec, htot, hr, hdata, rfl⟩ := hu
    refine (h.setCache_cacheFor hf (by omega)).setCw_memWrite _ ?_
    rw [List.length_map, h.ecWords_length hf hec htot (by omega) hdata]
    simp only [encodeRange]
    omega
  | rsSynd =>
    obtain ⟨w, v, hr, rfl⟩ := hu
    exact (h.setCw_memWrite _ (by rw [List.length_map, syndromes_length]; exact hr)).setResult v

theorem State.Inv.exec {s t : State} (h : s.Inv) {i : Instr} (ht : exec i s = .next t) : t.Inv := by
  cases hw : i.wellFormed with
  | false =>
    obtain rfl := Host.Outcome.next.inj ((exec_illFormed hw).symm.trans ht)
    exact h.fail (by decide)
  | true =>
    by_cases hi : i = .gfCfg
    · subst hi
      rcases execGfCfg_next ht with ⟨hok, rfl⟩ | ⟨-, rfl⟩
      · exact (h.newField fun _ => ⟨hok, rfl⟩).complete
      · exact (h.newField (b := false) fun hb => (nomatch hb)).fail (e := .fieldInvalid) (by decide)
    · rcases exec_next hw hi ht with ⟨e, he, rfl⟩ | ⟨u, hf, hu, rfl⟩
      · exact h.fail fun hno => noError_not_mem_mayRaise i (hno ▸ he)
      · exact (h.effect hf hu).complete

theorem State.Inv.sequencerStep {s t : State} (h : s.Inv) {l : Latch} (hl : s.latch = some l)
    (ht : sequencerStep s = .next t) : t.Inv := by
  cases hd : decode l.word with
  | ok i => exact h.exec (sequencerStep_legal hl hd ▸ ht)
  | error e =>
    obtain rfl := Host.Outcome.next.inj ((sequencerStep_illegal hl hd).symm.trans ht)
    exact h.fail (by decide)

/-! ### The host's side -/

/-- A reset over a good buffer meets the invariant: no field, no register, the cache's seed (R231). -/
theorem resetWith_inv (s : State) {m : Memory} (hwf : Memory.wf m = true) (hm : CwInBuffer m) : (s.resetWith m).Inv where
  cwSorted := hwf
  cwInBuffer := hm
  fieldBuilt := fun hf => (nomatch hf)
  polysOk := fun i p hp => by simp [State.reset] at hp
  cacheSize := (by decide : 1 ≤ 1 ∧ 1 ≤ Config.nmax)
  cacheGenerators := fun hf => (nomatch hf)
  cacheSeeded := fun _ => rfl
  errAgrees := by simp [State.reset]
  busyClear := fun _ => rfl

theorem State.Inv.softReset {s : State} (h : s.Inv) : s.softReset.Inv :=
  (resetWith_inv s (wf_memScribble _ _ _ h.cwSorted)
    (cwInBuffer_memScribble h.cwInBuffer _ (abortRange_bounds s))).advance _

theorem State.Inv.ctrlWrite {s : State} (h : s.Inv) (v : Word) : (ctrlWrite s v).Inv := by
  unfold Machine.ctrlWrite
  split
  · exact h.softReset
  · split
    · exact h.clearOverrun
    · exact h

/-- A write that is no CTRL write is dropped while busy (R42). -/
theorem busyWrite_other (s : State) {loc : Location} (h : loc ≠ .ctrl) (v : Word) : busyWrite s loc v = s.setOverrun := by
  cases loc with
  | ctrl => exact absurd rfl h
  | _ => rfl

theorem State.Inv.busWrite {s : State} (h : s.Inv) {loc : Location} (hloc : ∀ a, loc = .codeword a → a < Config.nmax)
    (v : Word) : (busWrite s loc v).Inv := by
  refine State.Inv.respond ?_ _
  split
  · by_cases hc : loc = .ctrl
    · subst hc
      exact h.ctrlWrite v
    · rw [busyWrite_other s hc]
      exact h.setOverrun
  · cases loc with
    | ctrl => exact h.ctrlWrite v
    | cmd => exact h.accept v
    | fieldM | fieldPoly | fieldBase | arg0 | arg1 | arg2 | arg3 => exact h.setRegs _
    | codeword a => exact h.setCw (wf_cwSet a _ h.cwSorted) (cwInBuffer_cwSet h.cwInBuffer (hloc a rfl) _)
    | id | caps | status | result | cacheDeg | reserved => exact h

/-- The codeword entries of the window are those of the buffer (R62). -/
theorem locate_codeword_lt {offset a : Nat} (hw : offset < Config.windowBytes) (h : locate offset = .codeword a) :
    a < Config.nmax := by
  by_cases hc : Config.cwBase ≤ offset
  · rw [locate, if_pos hc] at h
    cases h
    simp only [Config.windowBytes] at hw
    omega
  · rw [locate, if_neg hc] at h
    repeat (rcases ite_eq_iff.mp h with ⟨-, h⟩ | ⟨-, h⟩; · cases h)
    cases h

theorem State.Inv.performEvent {s t : State} (h : s.Inv) {e : Event} (ht : performEvent s e = .next t) : t.Inv := by
  cases e with
  | access a =>
    rcases busAccess_next ht with ⟨r, n, rfl⟩ | ⟨offset, v, hw, -, -, rfl⟩
    · exact (h.respond r).advance n
    · exact h.busWrite (fun a ha => locate_codeword_lt hw ha) v
  | wait =>
    obtain rfl := Host.Outcome.next.inj ht
    exact h.respond _
  | powerOnReset =>
    obtain rfl := Host.Outcome.next.inj ht
    exact resetWith_inv s rfl fun c hc => absurd hc List.not_mem_nil

/-- Settles O12: a step does nothing, runs the latched command, or performs an event of the host, and each keeps the invariant. -/
theorem stepKeepsInvariant : Obligations.StepKeepsInvariant := by
  intro s t h ht
  rcases step_next ht with ⟨-, -, rfl⟩ | ⟨l, n, hl, hs⟩ | ⟨e, es, n, -, he⟩
  · exact h
  · exact (h.advance n).sequencerStep hl hs
  · exact ((h.advance n).setPending es).performEvent he

end Sys2Proof.Machine

/-! ## The register window (R25 to R35, R42, R43) -/

namespace Sys2Proof.Machine

/-! ### Places -/

/-- The reserved offsets of R43. -/
theorem locate_reserved {offset : Nat} (h : offset = 0x01C ∨ offset = 0x02C ∨ (0x040 ≤ offset ∧ offset < 0x4000)) :
    locate offset = .reserved := by
  rcases h with rfl | rfl | ⟨hlo, hhi⟩
  · rfl
  · rfl
  · rw [locate, if_neg (by rw [Config.cwBase]; omega)]
    repeat rw [if_neg (by omega)]

/-- The codeword window of R43. -/
theorem locate_window {offset : Nat} (h : 0x4000 ≤ offset) : locate offset = .codeword ((offset - 0x4000) / 4) := if_pos h

/-- CTRL stands at one offset. -/
theorem locate_ne_ctrl {offset : Nat} (h : offset ≠ 0x008) : locate offset ≠ .ctrl := by
  intro hl
  rcases ite_eq_iff.mp hl with ⟨-, hl⟩ | ⟨-, hl⟩
  · cases hl
  rcases ite_eq_iff.mp hl with ⟨-, hl⟩ | ⟨-, hl⟩
  · cases hl
  rcases ite_eq_iff.mp hl with ⟨-, hl⟩ | ⟨-, hl⟩
  · cases hl
  rw [if_neg h] at hl
  repeat (rcases ite_eq_iff.mp hl with ⟨-, hl⟩ | ⟨-, hl⟩; · cases hl)
  cases hl

/-! ### Legal accesses, of a busy and of an idle block -/

section
variable {s : State}

theorem busAccess_read_aligned {offset : Nat} (hw : offset < Config.windowBytes) (ha : offset % 4 = 0) :
    busAccess s (.read .word offset) = busRead s (locate offset) := by
  rw [busAccess, if_neg (not_le.mpr hw), if_pos (by simp [legalAccess, ha])]

theorem busAccess_write_aligned {offset : Nat} (hw : offset < Config.windowBytes) (ha : offset % 4 = 0) (v : Word) :
    busAccess s (.write .word offset v) = .next (busWrite s (locate offset) v) := by
  rw [busAccess, if_neg (not_le.mpr hw), if_pos (by simp [legalAccess, ha])]

/-- R42: a read of a busy block that has a value. -/
theorem busRead_busy {loc : Location} {v : Word} (hb : s.busy = true) (h : busyRead s loc = some v) :
    busRead s loc = .next (s.respond (.data v)) := by
  rw [busRead, if_pos hb, h]

/-- R42: a read of a busy block whose datum is not specified. -/
theorem busRead_busy_free {loc : Location} (hb : s.busy = true) (h : busyRead s loc = none) :
    busRead s loc = .next ((s.respond (.data (Config.freeWord s.draws))).advance 1) := by
  rw [busRead, if_pos hb, h]

theorem busRead_idle {loc : Location} {v : Word} (hb : s.busy = false) (h : idleRead s loc = .ok v) :
    busRead s loc = .next (s.respond (.data v)) := by
  rw [busRead, if_neg (by simp [hb]), h]

/-- A place that a busy block reads too has one value at all times. -/
theorem busRead_always {loc : Location} {v : Word} (h : busyRead s loc = some v) (h' : idleRead s loc = .ok v) :
    busRead s loc = .next (s.respond (.data v)) := by
  cases hb : s.busy with
  | true => exact busRead_busy hb h
  | false => exact busRead_idle hb h'

theorem busWrite_busy (hb : s.busy = true) (loc : Location) (v : Word) :
    busWrite s loc v = (busyWrite s loc v).respond .done := by
  rw [busWrite, if_pos hb]

theorem busWrite_idle (hb : s.busy = false) (loc : Location) (v : Word) :
    busWrite s loc v = (idleWrite s loc v).respond .done := by
  rw [busWrite, if_neg (by simp [hb])]

/-- CTRL takes a write at any time (R33). -/
theorem busAccess_write_ctrl (v : Word) : busAccess s (.write .word 0x008 v) = .next ((ctrlWrite s v).respond .done) := by
  have hloc : busAccess s (.write .word 0x008 v) = .next (busWrite s .ctrl v) :=
    busAccess_write_aligned (by decide) (by decide) v
  rw [hloc]
  cases hb : s.busy with
  | true => rw [busWrite_busy hb]; rfl
  | false => rw [busWrite_idle hb]; rfl

end

/-! ### CTRL -/

/-- A soft reset of an idle block keeps the buffer (R231). -/
theorem softReset_cw_idle {s : State} (h : s.busy = false) : s.softReset.cw = s.cw := by
  have hl : s.latch = none := by simpa [State.busy] using h
  exact softReset_cw_empty (by rw [abortRange_idle hl])

theorem statusWord_reset : State.reset.statusWord = 0 := by decide

/-- Settles O14: the three cases of the two action bits. -/
theorem controlWriteActs : Obligations.ControlWriteActs := by
  intro s v
  simp only [busAccess_write_ctrl, Host.Outcome.next.injEq, exists_eq_left']
  refine ⟨fun h0 => ?_, fun h0 h1 => ?_, fun h0 h1 => ?_⟩
  · rw [ctrlWrite, if_pos h0]
    exact ⟨statusWord_reset, rfl, rfl, rfl, rfl, fun i => by simp [State.softReset, State.reset], rfl, rfl, softReset_cw_idle⟩
  · rw [ctrlWrite, if_neg (by rw [h0]; decide), if_pos h1]
    rfl
  · rw [ctrlWrite, if_neg (by rw [h0]; decide), if_neg (by rw [h1]; decide)]

/-! ### A busy block -/

/-- Settles O17: writes by whether they go to CTRL, reads by the place of their offset. -/
theorem busyWindowRule : Obligations.BusyWindowRule := by
  intro s offset hb hw ha
  have hread := busAccess_read_aligned (s := s) hw ha
  refine ⟨fun v => ?_, ?_, ?_, ?_, fun h => ?_, fun h => ?_⟩
  · by_cases hc : offset = 0x008
    · subst hc
      rw [busAccess_write_ctrl, if_pos rfl]
    · rw [busAccess_write_aligned hw ha, busWrite_busy hb, busyWrite_other s (locate_ne_ctrl hc), if_neg hc]
      rfl
  · rintro rfl
    exact hread.trans (busRead_busy hb rfl)
  · rintro rfl
    exact hread.trans (busRead_busy hb rfl)
  · rintro rfl
    exact hread.trans (busRead_busy hb rfl)
  · have hzero : busyRead s (locate offset) = some 0 := by
      rcases h with rfl | rfl | h
      · rfl
      · rfl
      · rw [locate_reserved h]
        rfl
    exact hread.trans (busRead_busy hb hzero)
  · have hfree : busyRead s (locate offset) = none := by
      rcases h with rfl | rfl | rfl | rfl | rfl | ⟨hlo, hhi⟩ | hcw
      · rfl
      · rfl
      · rfl
      · rfl
      · rfl
      · obtain rfl | rfl | rfl | rfl : offset = 0x030 ∨ offset = 0x034 ∨ offset = 0x038 ∨ offset = 0x03C := by omega
        all_goals rfl
      · rw [locate_window hcw]
        rfl
    exact ⟨_, hread.trans (busRead_busy_free hb hfree)⟩

/-! ### An idle block -/

theorem cacheDeg_toNat {s : State} (h : s.cache.length ≤ Config.nmax) : s.cacheDeg.toNat = s.cache.length - 1 := by
  simp only [Config.nmax] at h
  simp only [State.cacheDeg, BitVec.toNat_setWidth, BitVec.toNat_ofNat]
  omega

/-- Settles O19: each place of the window by its value, and the writes the block ignores. -/
theorem readOnlyWindow : Obligations.ReadOnlyWindow := by
  refine ⟨fun s => ⟨?_, ?_⟩, fun s offset hb ha => ⟨fun h => ?_, fun h v => ?_⟩, fun s hb => ⟨?_, ?_, ?_, cacheDeg_toNat⟩⟩
  · exact (busAccess_read_aligned (by decide) rfl).trans (busRead_always (loc := .id) rfl rfl)
  · exact (busAccess_read_aligned (by decide) rfl).trans (busRead_always (loc := .caps) rfl rfl)
  · have hw : offset < Config.windowBytes := by simp only [Config.windowBytes, Config.cwBase, Config.nmax]; omega
    have hzero : idleRead s (locate offset) = .ok 0 := by
      rcases h with rfl | rfl | h
      · rfl
      · rfl
      · rw [locate_reserved h]
        rfl
    exact (busAccess_read_aligned hw ha).trans (busRead_idle hb hzero)
  · have hw : offset < Config.windowBytes := by simp only [Config.windowBytes, Config.cwBase, Config.nmax]; omega
    have hsame : idleWrite s (locate offset) v = s := by
      rcases h with rfl | rfl | rfl | rfl | rfl | h
      · rfl
      · rfl
      · rfl
      · rfl
      · rfl
      · rw [locate_reserved h]
        rfl
    rw [busAccess_write_aligned hw ha, busWrite_idle hb, hsame]
  · exact (busAccess_read_aligned (by decide) rfl).trans (busRead_idle (loc := .result) hb rfl)
  · exact (busAccess_read_aligned (by decide) rfl).trans (busRead_idle (loc := .cacheDeg) hb rfl)
  · have hshort : s.cacheDeg.toNat < 2 ^ 13 := by
      simp only [State.cacheDeg, BitVec.toNat_setWidth, BitVec.toNat_ofNat]
      omega
    exact BitVec.eq_of_toNat_eq (by
      rw [BitVec.extractLsb'_toNat, Nat.shiftRight_eq_div_pow, Nat.div_eq_of_lt hshort]
      rfl)

/-- Keeping the low `k` bits of a word is masking it (R25, R27 to R29). -/
theorem setWidth_setWidth_eq_and (v : Word) {k : Nat} (hk : k ≤ 32) :
    (v.setWidth k).setWidth 32 = v &&& BitVec.ofNat 32 (2 ^ k - 1) := by
  apply BitVec.eq_of_toNat_eq
  have hpow : 2 ^ k ≤ 2 ^ 32 := Nat.pow_le_pow_right (by decide) hk
  have hpos : 0 < 2 ^ k := by positivity
  have hmod : v.toNat % 2 ^ k ≤ v.toNat := Nat.mod_le _ _
  rw [BitVec.toNat_and, BitVec.toNat_ofNat, Nat.mod_eq_of_lt (by omega), Nat.and_two_pow_sub_one_eq_mod,
    BitVec.toNat_setWidth, BitVec.toNat_setWidth, Nat.mod_eq_of_lt (by omega)]

/-- Of an idle block, a place that stores a written word in the operand registers `r`, and then reads as `d`. -/
theorem write_then_read_operand {s : State} (hb : s.busy = false) {offset : Nat} {v d : Word} {r : OperandRegs}
    (hw : offset < Config.windowBytes) (ha : offset % 4 = 0) (hwrite : idleWrite s (locate offset) v = s.setRegs r)
    (hread : idleRead ((s.setRegs r).respond .done) (locate offset) = .ok d) :
    ∃ t, busAccess s (.write .word offset v) = .next t ∧
      busAccess t (.read .word offset) = .next (t.respond (.data d)) ∧
      t = { s with regs := r, responses := .done :: s.responses } := by
  refine ⟨(s.setRegs r).respond .done, ?_, (busAccess_read_aligned hw ha).trans (busRead_idle hb hread), rfl⟩
  rw [busAccess_write_aligned hw ha, busWrite_idle hb, hwrite]

/-- Settles O20: each operand register stores the bits its mask keeps. -/
theorem operandRegistersReadBack : Obligations.OperandRegistersReadBack := by
  intro s v hb
  have hfull : (Except.ok v : Except Fault Word) = .ok (v &&& 0xFFFFFFFF) := congrArg _ BitVec.and_allOnes.symm
  have hstored : ∀ k, k ≤ 32 → (Except.ok ((v.setWidth k).setWidth 32) : Except Fault Word) =
      .ok (v &&& BitVec.ofNat 32 (2 ^ k - 1)) := fun k hk => congrArg _ (setWidth_setWidth_eq_and v hk)
  simp only [List.mem_cons, forall_eq_or_imp, List.not_mem_nil, IsEmpty.forall_iff, implies_true, and_true]
  refine ⟨?_, ?_, ?_, ?_, ?_, ?_, ?_⟩
  · exact write_then_read_operand hb (by decide) rfl rfl hfull
  · exact write_then_read_operand hb (by decide) rfl rfl hfull
  · exact write_then_read_operand hb (by decide) rfl rfl hfull
  · exact write_then_read_operand hb (by decide) rfl rfl hfull
  · exact write_then_read_operand hb (by decide) rfl rfl (hstored 4 (by decide))
  · exact write_then_read_operand hb (by decide) rfl rfl (hstored 13 (by decide))
  · exact write_then_read_operand hb (by decide) rfl rfl (hstored 12 (by decide))

/-! ### STATUS -/

theorem getLsbD_append_ofBool_zero {n : Nat} (x : BitVec n) (b : Bool) : (x ++ BitVec.ofBool b).getLsbD 0 = b := by
  rw [BitVec.getLsbD_append, if_pos (by decide)]
  cases b <;> rfl

theorem getLsbD_append_ofBool_succ {n : Nat} (x : BitVec n) (b : Bool) (k : Nat) :
    (x ++ BitVec.ofBool b).getLsbD (k + 1) = x.getLsbD k := by
  simp [BitVec.getLsbD_append]

theorem extractLsb'_append_ofBool {n : Nat} (x : BitVec n) (b : Bool) (k len : Nat) :
    (x ++ BitVec.ofBool b).extractLsb' (k + 1) len = x.extractLsb' k len :=
  BitVec.extractLsb'_append_eq_of_le (by omega)

/-- Above its four flags STATUS holds the error code between zeros (R34). -/
theorem statusWord_extractLsb' (s : State) (k len : Nat) :
    s.statusWord.extractLsb' (k + 4) len = (0#16 ++ s.errCode.code ++ 0#4).extractLsb' k len := by
  unfold State.statusWord
  rw [extractLsb'_append_ofBool, extractLsb'_append_ofBool, extractLsb'_append_ofBool, extractLsb'_append_ofBool]

/-- Settles O22: the word is a concatenation whose parts are its fields. -/
theorem statusWordLayout : Obligations.StatusWordLayout := by
  intro s
  refine ⟨?_, ?_, ?_, ?_, ?_, ?_, ?_, ?_⟩
  · rw [State.statusWord, getLsbD_append_ofBool_zero]
  · rw [State.statusWord, getLsbD_append_ofBool_succ, getLsbD_append_ofBool_zero]
  · rw [State.statusWord, getLsbD_append_ofBool_succ, getLsbD_append_ofBool_succ, getLsbD_append_ofBool_zero]
  · rw [State.statusWord, getLsbD_append_ofBool_succ, getLsbD_append_ofBool_succ, getLsbD_append_ofBool_succ,
      getLsbD_append_ofBool_zero]
  · rw [statusWord_extractLsb' s 0 4, BitVec.extractLsb'_append_eq_right]
    rfl
  · rw [statusWord_extractLsb' s 4 8, BitVec.extractLsb'_append_eq_of_le (by decide), BitVec.extractLsb'_append_eq_right]
  · rw [statusWord_extractLsb' s 12 16, BitVec.extractLsb'_append_eq_of_le (by decide), BitVec.extractLsb'_append_eq_left]
    rfl
  · exact (busAccess_read_aligned (by decide) rfl).trans (busRead_always (loc := .status) rfl rfl)

end Sys2Proof.Machine

/-! ## The codeword buffer and the accesses of the window (R61 to R65) -/

namespace Sys2Proof.Machine

/-! ### The canonical form of the buffer -/

/-- A command other than GF_CFG that completes well changes the buffer by one MemWrite, an empty one if it writes no codeword (R40). -/
theorem effect_cw {s u : State} {i : Instr} (hu : Effect i s u) : ∃ a vs, u.cw = memWrite s.cw a vs := by
  have hsame : ∃ a vs, s.cw = memWrite s.cw a vs := ⟨0, [], rfl⟩
  cases i with
  | gfCfg => exact hu.elim
  | gfAdd | gfMul | gfDiv | gfInv | gfExp | gfLog | polyCoef _ | polyDeg _ | polyIszero _ | polyEval _ =>
    obtain ⟨v, rfl⟩ := hu
    exact hsame
  | polyLoad _ =>
    obtain ⟨cs, -, -, -, rfl⟩ := hu
    exact hsame
  | polyAdd _ _ _ | polyDiv _ _ _ _ =>
    obtain ⟨p, q, -, -, rfl⟩ := hu
    exact hsame
  | polyMul _ _ _ =>
    obtain ⟨p, q, -, -, -, rfl⟩ := hu
    exact hsame
  | polyMulmono _ _ =>
    obtain ⟨p, d, c, -, -, rfl⟩ := hu
    exact hsame
  | rsGen _ =>
    obtain ⟨d, -, rfl⟩ := hu
    exact hsame
  | polyStore _ =>
    obtain ⟨p, v, -, -, rfl⟩ := hu
    exact ⟨_, _, rfl⟩
  | rsEncode =>
    obtain ⟨ec, data, -, -, -, -, -, rfl⟩ := hu
    exact ⟨_, _, rfl⟩
  | rsSynd =>
    obtain ⟨w, v, -, rfl⟩ := hu
    exact ⟨_, _, rfl⟩

/-- Every command, however it ends, changes the buffer by one MemWrite: an error and GF_CFG write nothing. -/
theorem exec_cw {s t : State} {i : Instr} (ht : exec i s = .next t) : ∃ a vs, t.cw = memWrite s.cw a vs := by
  cases hw : i.wellFormed with
  | false =>
    obtain rfl := Host.Outcome.next.inj ((exec_illFormed hw).symm.trans ht)
    exact ⟨0, [], rfl⟩
  | true =>
    by_cases hi : i = .gfCfg
    · subst hi
      rcases execGfCfg_next ht with ⟨-, rfl⟩ | ⟨-, rfl⟩ <;> exact ⟨0, [], rfl⟩
    · rcases exec_next hw hi ht with ⟨e, -, rfl⟩ | ⟨u, -, hu, rfl⟩
      · exact ⟨0, [], rfl⟩
      · exact effect_cw (u := u) hu

theorem sequencerStep_cw {s t : State} {l : Latch} (hl : s.latch = some l) (ht : sequencerStep s = .next t) :
    ∃ a vs, t.cw = memWrite s.cw a vs := by
  cases hd : decode l.word with
  | ok i => exact exec_cw (sequencerStep_legal hl hd ▸ ht)
  | error e =>
    obtain rfl := Host.Outcome.next.inj ((sequencerStep_illegal hl hd).symm.trans ht)
    exact ⟨0, [], rfl⟩

section
variable {s : State} (h : Memory.wf s.cw = true)
include h

theorem wf_ctrlWrite (v : Word) : Memory.wf (ctrlWrite s v).cw = true := by
  unfold ctrlWrite
  split
  · exact wf_memScribble _ _ _ h
  · split <;> exact h

theorem wf_busyWrite (loc : Location) (v : Word) : Memory.wf (busyWrite s loc v).cw = true := by
  by_cases hc : loc = .ctrl
  · subst hc
    exact wf_ctrlWrite h v
  · rw [busyWrite_other s hc]
    exact h

theorem wf_idleWrite (loc : Location) (v : Word) : Memory.wf (idleWrite s loc v).cw = true := by
  cases loc with
  | ctrl => exact wf_ctrlWrite h v
  | codeword a => exact wf_cwSet a _ h
  | _ => exact h

theorem wf_busWrite (loc : Location) (v : Word) : Memory.wf (busWrite s loc v).cw = true := by
  cases hb : s.busy with
  | true => rw [busWrite_busy hb]; exact wf_busyWrite h loc v
  | false => rw [busWrite_idle hb]; exact wf_idleWrite h loc v

theorem wf_performEvent {t : State} {e : Event} (ht : performEvent s e = .next t) : Memory.wf t.cw = true := by
  cases e with
  | access a =>
    rcases busAccess_next ht with ⟨r, n, rfl⟩ | ⟨offset, v, -, -, -, rfl⟩
    · exact h
    · exact wf_busWrite h _ v
  | wait =>
    obtain rfl := Host.Outcome.next.inj ht
    exact h
  | powerOnReset =>
    obtain rfl := Host.Outcome.next.inj ht
    rfl

end

/-- Settles O13: a command changes the buffer by a MemWrite, and every event of the host keeps its form. -/
theorem stepKeepsMemoryCanonical : Obligations.StepKeepsMemoryCanonical := by
  intro s t h ht
  rcases step_next ht with ⟨-, -, rfl⟩ | ⟨l, n, hl, hs⟩ | ⟨e, es, n, -, he⟩
  · exact h
  · obtain ⟨a, vs, hcw⟩ := sequencerStep_cw (s := s.advance n) hl hs
    rw [hcw]
    exact wf_memWrite a vs h
  · exact wf_performEvent (s := (s.advance n).setPending es) h he

/-! ### Accesses -/

/-- Settles O18: a read that answers is no write, and leaves all but the bus's own fields. -/
theorem readsHaveNoSideEffect : Obligations.ReadsHaveNoSideEffect := by
  intro s t w offset ht
  rcases busAccess_next ht with ⟨r, n, rfl⟩ | ⟨_, _, -, -, hwrite, -⟩
  · exact ⟨r, s.draws + n, rfl⟩
  · cases hwrite

theorem not_legalAccess {w : Width} {offset : Nat} (h : w ≠ .word ∨ offset % 4 ≠ 0) : ¬ legalAccess w offset = true := by
  rcases h with h | h <;> simp [legalAccess, h]

/-- Settles O16: an access in the window that is not legal gets the bus error alone. -/
theorem busErrorChangesNothing : Obligations.BusErrorChangesNothing := by
  intro s w offset hw h
  have hin : ¬ Config.windowBytes ≤ offset := not_le.mpr hw
  refine ⟨fun v => ?_, Config.freeWord s.draws, ?_⟩
  · rw [busAccess, if_neg hin, if_neg (not_legalAccess h)]
    rfl
  · rw [busAccess, if_neg hin, if_neg (not_legalAccess h)]
    rfl

/-- Of an idle block, an entry that holds a value reads as it, zero-extended (R62). -/
theorem idleRead_codeword {s : State} {a : Nat} {c : Codeword} (h : cwGet s.cw a = some c) :
    idleRead s (.codeword a) = .ok (c.setWidth 32) := by
  rw [idleRead, h]

/-- Settles O21: the write is one `cwSet`, whose entry reads back and which leaves every other entry. -/
theorem codewordWindowReadsBack : Obligations.CodewordWindowReadsBack := by
  intro s a v hb ha
  have hw : 0x4000 + 4 * a < Config.windowBytes := by
    simp only [Config.windowBytes, Config.cwBase, Config.nmax] at *
    omega
  have hal : (0x4000 + 4 * a) % 4 = 0 := by omega
  have hdatum : (v.setWidth 16).setWidth 32 = v &&& 0x0000FFFF := setWidth_setWidth_eq_and v (by decide)
  have hget : cwGet (cwSet s.cw a (v.setWidth 16)) a = some (v.setWidth 16) := cwGet_cwSet_same _ _ _
  refine ⟨(s.setCw (cwSet s.cw a (v.setWidth 16))).respond .done, ?_, ?_, hget, fun b hne => cwGet_cwSet_other _ _ hne, rfl⟩
  · rw [busAccess_write_aligned hw hal, locate_codeword, busWrite_idle hb]
    rfl
  · rw [busAccess_read_aligned hw hal, locate_codeword, ← hdatum]
    exact busRead_idle hb (idleRead_codeword hget)

end Sys2Proof.Machine

/-! ## Decoding and encoding (R81 to R90) -/

namespace Sys2Proof

/-! ### One register field of a word -/

/-- A register index fits in its field: placing it and reading the field back gives it again (R81, R82). -/
theorem regField_placeReg_same (r : PReg) {lo : Nat} (hlo : lo ≤ 29) : regField (placeReg r lo) lo = r := by
  have hfit : r.val * 2 ^ lo < 2 ^ 32 := calc
    r.val * 2 ^ lo < 2 ^ 3 * 2 ^ lo := Nat.mul_lt_mul_of_pos_right r.isLt (by positivity)
    _ = 2 ^ (3 + lo) := (Nat.pow_add ..).symm
    _ ≤ 2 ^ 32 := Nat.pow_le_pow_right (by decide) (by omega)
  apply Fin.ext
  simp only [regField, placeReg, BitVec.val_toFin, BitVec.extractLsb'_toNat, BitVec.toNat_shiftLeft, BitVec.toNat_ofNat,
    Nat.mod_eq_of_lt (show r.val < 2 ^ 32 by omega), Nat.shiftLeft_eq, Nat.mod_eq_of_lt hfit, Nat.shiftRight_eq_div_pow,
    Nat.mul_div_cancel _ (show 0 < 2 ^ lo by positivity)]
  omega

theorem placeReg_eq_zero_iff {r : PReg} {lo : Nat} (hlo : lo ≤ 29) : placeReg r lo = 0 ↔ r = 0 := by
  constructor
  · intro h
    rw [← regField_placeReg_same r hlo, h]
    simp [regField]
  · rintro rfl
    simp [placeReg]

/-- A field is the low three bits of the word shifted down to it. -/
theorem ofNat_regField (w : Word) (lo : Nat) : BitVec.ofNat 32 (regField w lo).val = w >>> lo &&& 7#32 := by
  rw [show (7#32 : Word) = BitVec.ofNat 32 (2 ^ 3 - 1) from rfl, ← Machine.setWidth_setWidth_eq_and _ (by decide)]
  apply BitVec.eq_of_toNat_eq
  simp [regField]

/-- Placing the field a word holds is masking the word to that field. -/
theorem placeReg_regField (w : Word) (lo : Nat) : placeReg (regField w lo) lo = w &&& 7#32 <<< lo := by
  rw [placeReg, ofNat_regField]
  apply BitVec.eq_of_getLsbD_eq
  intro k hk
  simp only [BitVec.getLsbD_and, BitVec.getLsbD_shiftLeft, BitVec.getLsbD_ushiftRight]
  by_cases h : k < lo
  · simp [h]
  · simp [h, hk, Nat.add_sub_cancel' (Nat.le_of_not_lt h)]

theorem regField_eq_zero_iff (w : Word) {lo : Nat} (hlo : lo ≤ 29) : regField w lo = 0 ↔ w &&& 7#32 <<< lo = 0 := by
  rw [← placeReg_regField, placeReg_eq_zero_iff hlo]

theorem placeReg_fieldRd (w : Word) : placeReg (fieldRd w) 8 = w &&& maskRd := placeReg_regField w 8
theorem placeReg_fieldRe (w : Word) : placeReg (fieldRe w) 12 = w &&& maskRe := placeReg_regField w 12
theorem placeReg_fieldRs1 (w : Word) : placeReg (fieldRs1 w) 16 = w &&& maskRs1 := placeReg_regField w 16
theorem placeReg_fieldRs2 (w : Word) : placeReg (fieldRs2 w) 20 = w &&& maskRs2 := placeReg_regField w 20

/-! ### The fields of an assembled word -/

theorem regField_or (a b : Word) (lo : Nat) : regField (a ||| b) lo = regField a lo ||| regField b lo := by
  rw [regField, BitVec.extractLsb'_or, BitVec.toFin_or, regField, regField]

theorem PReg.or_zero (r : PReg) : r ||| 0 = r := by
  revert r
  decide

theorem PReg.zero_or (r : PReg) : 0 ||| r = r := by
  revert r
  decide

theorem regField_eq_zero_of_bits {w : Word} {lo : Nat} (h : ∀ k < 3, w.getLsbD (lo + k) = false) : regField w lo = 0 := by
  have hzero : w.extractLsb' lo 3 = 0 := by
    apply BitVec.eq_of_getLsbD_eq
    intro k hk
    simp [h k hk]
  rw [regField, hzero]
  rfl

/-- The OP lies below every register field. -/
theorem regField_code (c : BitVec 8) {lo : Nat} (hlo : 8 ≤ lo) : regField (c.setWidth 32) lo = 0 :=
  regField_eq_zero_of_bits fun k _ => by simp [BitVec.getLsbD_of_ge c (lo + k) (by omega)]

/-- An index placed in one field leaves every field apart from it 0. -/
theorem regField_placeReg_other (r : PReg) {lo lo' : Nat} (h : lo' + 3 ≤ lo ∨ lo + 3 ≤ lo') :
    regField (placeReg r lo') lo = 0 := by
  refine regField_eq_zero_of_bits fun k hk => ?_
  simp only [placeReg, BitVec.getLsbD_shiftLeft, BitVec.getLsbD_ofNat]
  rcases h with h | h
  · have hbig : r.val < 2 ^ (lo + k - lo') := calc
      r.val < 2 ^ 3 := r.isLt
      _ ≤ 2 ^ (lo + k - lo') := Nat.pow_le_pow_right (by decide) (by omega)
    simp [Nat.testBit_lt_two_pow hbig]
  · simp [show lo + k < lo' by omega]

/-- The row's command with the operands of an encoded word is the encoded command. -/
theorem build_encode (i : Instr) : i.opcode.build (encode i) = i := by
  cases i <;> simp [Instr.opcode, Opcode.build, encode, Instr.operandBits, fieldRd, fieldRe, fieldRs1, fieldRs2,
    regField_or, regField_code, regField_placeReg_same, regField_placeReg_other, PReg.or_zero, PReg.zero_or]

/-! ### The decoder -/

/-- OP values name one row each (R85). -/
theorem Opcode.ofCode?_eq_some_iff {c : BitVec 8} {o : Opcode} : Opcode.ofCode? c = some o ↔ o.code = c := by
  refine ⟨fun h => by simpa using List.find?_some h, ?_⟩
  rintro rfl
  cases o <;> rfl

theorem Opcode.code_injective : Function.Injective Opcode.code := fun _ _ h =>
  Option.some.inj ((ofCode?_eq_some_iff.mpr h).symm.trans (ofCode?_eq_some_iff.mpr rfl))

theorem decode_of_reserved {w : Word} (h : ∀ o : Opcode, o.code ≠ fieldOp w) : decode w = .error .reservedOpcode := by
  have hnone : Opcode.ofCode? (fieldOp w) = none :=
    Option.eq_none_iff_forall_ne_some.mpr fun o ho => h o (Opcode.ofCode?_eq_some_iff.mp ho)
  rw [decode, hnone]

theorem decode_of_code {w : Word} {o : Opcode} (h : o.code = fieldOp w) :
    decode w = if w &&& ~~~ o.usedMask = o.code.setWidth 32 then
      if (o.build w).wellFormed then .ok (o.build w) else .error .sameDestination
    else .error .reservedBits := by
  rw [decode, Opcode.ofCode?_eq_some_iff.mpr h]

/-- What the decoder accepts (R89): a row's OP, zeros outside its fields, and a command of legal form. -/
theorem decode_eq_ok_iff {w : Word} {i : Instr} : decode w = .ok i ↔
    ∃ o : Opcode, o.code = fieldOp w ∧ w &&& ~~~ o.usedMask = o.code.setWidth 32 ∧ o.build w = i ∧ i.wellFormed = true := by
  by_cases h : ∃ o : Opcode, o.code = fieldOp w
  · obtain ⟨o, ho⟩ := h
    rw [decode_of_code ho]
    constructor
    · intro hd
      split_ifs at hd with hm hw
      obtain rfl := Except.ok.inj hd
      exact ⟨o, ho, hm, rfl, hw⟩
    · rintro ⟨o', ho', hm, rfl, hw⟩
      obtain rfl := Opcode.code_injective (ho'.trans ho.symm)
      rw [if_pos hm, if_pos hw]
  · rw [decode_of_reserved fun o ho => h ⟨o, ho⟩]
    exact ⟨fun hd => (nomatch hd), fun ⟨o, ho, _⟩ => absurd ⟨o, ho⟩ h⟩

/-- Every encoded word carries its row's OP, and zeros outside the row's fields (R81, R86). -/
theorem encodedWord (i : Instr) : Laws.EncodedWord.Statement i := by
  cases i with
  | gfCfg => exact Laws.EncodedWord.gfCfg
  | gfAdd => exact Laws.EncodedWord.gfAdd
  | gfMul => exact Laws.EncodedWord.gfMul
  | gfDiv => exact Laws.EncodedWord.gfDiv
  | gfInv => exact Laws.EncodedWord.gfInv
  | gfExp => exact Laws.EncodedWord.gfExp
  | gfLog => exact Laws.EncodedWord.gfLog
  | polyLoad rd => exact Laws.EncodedWord.polyLoad rd
  | polyStore rs1 => exact Laws.EncodedWord.polyStore rs1
  | polyAdd rd rs1 rs2 => exact Laws.EncodedWord.polyAdd rd rs1 rs2
  | polyMul rd rs1 rs2 => exact Laws.EncodedWord.polyMul rd rs1 rs2
  | polyMulmono rd rs1 => exact Laws.EncodedWord.polyMulmono rd rs1
  | polyDiv rd re rs1 rs2 => exact Laws.EncodedWord.polyDiv rd re rs1 rs2
  | polyCoef rs1 => exact Laws.EncodedWord.polyCoef rs1
  | polyDeg rs1 => exact Laws.EncodedWord.polyDeg rs1
  | polyIszero rs1 => exact Laws.EncodedWord.polyIszero rs1
  | polyEval rs1 => exact Laws.EncodedWord.polyEval rs1
  | rsGen rd => exact Laws.EncodedWord.rsGen rd
  | rsEncode => exact Laws.EncodedWord.rsEncode
  | rsSynd => exact Laws.EncodedWord.rsSynd

/-- Settles O1: the encoded word passes the decoder's checks, and its fields hold the command's operands. -/
theorem decodeEncodeAgree : Obligations.DecodeEncodeAgree := by
  intro i hw
  obtain ⟨hop, hmask⟩ := encodedWord i
  exact decode_eq_ok_iff.mpr ⟨i.opcode, hop.symm, hmask, build_encode i, hw⟩

theorem opcode_build (o : Opcode) (w : Word) : (o.build w).opcode = o := by cases o <;> rfl

/-- The operand bits of a row's command are those of the word in the row's fields. -/
theorem operandBits_build (o : Opcode) (w : Word) : (o.build w).operandBits = w &&& o.usedMask := by
  cases o <;> simp [Opcode.build, Instr.operandBits, Opcode.usedMask, placeReg_fieldRd, placeReg_fieldRe,
    placeReg_fieldRs1, placeReg_fieldRs2, BitVec.and_or_distrib_left]

/-- Settles O2: outside the row's fields the word is the OP, and inside them the operand bits. -/
theorem legalWordIsItsEncoding : Obligations.LegalWordIsItsEncoding := by
  intro w i h
  obtain ⟨o, -, hmask, rfl, hw⟩ := decode_eq_ok_iff.mp h
  refine ⟨hw, ?_⟩
  calc encode (o.build w)
    _ = (w &&& ~~~ o.usedMask) ||| (w &&& o.usedMask) := by rw [encode, opcode_build, operandBits_build, hmask]
    _ = w := by
      rw [← BitVec.and_or_distrib_left, BitVec.not_or_self, BitVec.and_allOnes]

/-! ### Illegal words (R86) -/

/-- The reserved bits of every command word (R81). -/
def reservedBits : List Nat := [11, 15, 19, 23, 24, 25, 26, 27, 28, 29, 30, 31]

/-- The word whose set bits are the reserved ones. -/
def maskReserved : Word := 0xFF888800

theorem getLsbD_maskReserved (k : Nat) : maskReserved.getLsbD k = true ↔ k ∈ reservedBits := by
  by_cases hk : k < 32
  · revert k
    decide
  · have hmem : k ∉ reservedBits := fun h => hk ((by decide : ∀ j ∈ reservedBits, j < 32) k h)
    simp [hmem, BitVec.getLsbD_of_ge _ k (Nat.le_of_not_lt hk)]

theorem and_maskReserved_eq_zero_iff (w : Word) :
    w &&& maskReserved = 0 ↔ ¬ ∃ k ∈ reservedBits, w.getLsbD k = true := by
  constructor
  · rintro h ⟨k, hk, hw⟩
    have hbit : (w &&& maskReserved).getLsbD k = true := by
      rw [BitVec.getLsbD_and, hw, (getLsbD_maskReserved k).mpr hk]
      rfl
    simp [h] at hbit
  · intro h
    apply BitVec.eq_of_getLsbD_eq
    intro k _
    refine (Bool.eq_false_of_not_eq_true fun hbit => ?_).trans BitVec.getLsbD_zero.symm
    rw [BitVec.getLsbD_and, Bool.and_eq_true] at hbit
    exact h ⟨k, (getLsbD_maskReserved k).mp hbit.2, hbit.1⟩

/-- The field of the mask `m`, when the row does not use it. -/
def Opcode.unused (o : Opcode) (m : Word) : Word := if o.usedMask &&& m = 0 then m else 0

theorem Opcode.and_unused_eq_zero_iff (o : Opcode) (m w : Word) :
    w &&& o.unused m = 0 ↔ ¬ (o.usedMask &&& m = 0 ∧ w &&& m ≠ 0) := by
  by_cases h : o.usedMask &&& m = 0
  · rw [Opcode.unused, if_pos h]
    exact ⟨fun hw hne => hne.2 hw, fun hn => of_not_not fun hw => hn ⟨h, hw⟩⟩
  · rw [Opcode.unused, if_neg h]
    exact ⟨fun _ hne => h hne.1, fun _ => BitVec.and_zero⟩

/-- The bits above OP that a row wants 0 (R86). -/
def Opcode.clearMask (o : Opcode) : Word :=
  maskReserved ||| o.unused maskRd ||| o.unused maskRe ||| o.unused maskRs1 ||| o.unused maskRs2

/-- Outside a row's fields are OP and the bits the row wants 0. -/
theorem Opcode.not_usedMask (o : Opcode) : ~~~ o.usedMask = 0xFF ||| o.clearMask := by
  cases o <;> decide

theorem Opcode.code_and_clearMask (o : Opcode) : o.code.setWidth 32 &&& o.clearMask = 0 := by
  cases o <;> decide

/-- The word is a row's match outside the row's fields exactly when the bits the row wants 0 are 0. -/
theorem matches_iff {w : Word} {o : Opcode} (h : o.code = fieldOp w) :
    w &&& ~~~ o.usedMask = o.code.setWidth 32 ↔ w &&& o.clearMask = 0 := by
  have hop : w &&& 0xFF = o.code.setWidth 32 := by
    rw [h, fieldOp, ← BitVec.setWidth_eq_extractLsb' (by decide)]
    exact (Machine.setWidth_setWidth_eq_and w (k := 8) (by decide)).symm
  rw [Opcode.not_usedMask, BitVec.and_or_distrib_left, hop]
  constructor
  · intro hm
    have := congrArg (· &&& o.clearMask) hm
    simpa [BitVec.and_or_distrib_right, o.code_and_clearMask, BitVec.and_assoc] using this
  · intro hm
    rw [hm]
    exact BitVec.or_zero

/-- The ways a word with a row's OP breaks the format (R86). -/
def BreaksFormat (o : Opcode) (w : Word) : Prop :=
  (∃ k ∈ reservedBits, w.getLsbD k = true) ∨
  (o.usedMask &&& maskRd = 0 ∧ fieldRd w ≠ 0) ∨
  (o.usedMask &&& maskRe = 0 ∧ fieldRe w ≠ 0) ∨
  (o.usedMask &&& maskRs1 = 0 ∧ fieldRs1 w ≠ 0) ∨
  (o.usedMask &&& maskRs2 = 0 ∧ fieldRs2 w ≠ 0) ∨
  (o = .polyDiv ∧ fieldRd w = fieldRe w)

theorem wellFormed_build_iff (o : Opcode) (w : Word) :
    (o.build w).wellFormed = true ↔ ¬ (o = .polyDiv ∧ fieldRd w = fieldRe w) := by
  cases o <;> simp [Opcode.build, Instr.wellFormed]

/-- A word breaks the format when a bit its row wants 0 is not, or its command is ill-formed. -/
theorem breaksFormat_iff (o : Opcode) (w : Word) :
    BreaksFormat o w ↔ ¬ (w &&& o.clearMask = 0 ∧ (o.build w).wellFormed = true) := by
  have hor : ∀ {a b : Word}, a ||| b = 0 ↔ a = 0 ∧ b = 0 := BitVec.or_eq_zero_iff
  have hrd : fieldRd w ≠ 0 ↔ w &&& maskRd ≠ 0 := (regField_eq_zero_iff w (by decide)).not
  have hre : fieldRe w ≠ 0 ↔ w &&& maskRe ≠ 0 := (regField_eq_zero_iff w (by decide)).not
  have hrs1 : fieldRs1 w ≠ 0 ↔ w &&& maskRs1 ≠ 0 := (regField_eq_zero_iff w (by decide)).not
  have hrs2 : fieldRs2 w ≠ 0 ↔ w &&& maskRs2 ≠ 0 := (regField_eq_zero_iff w (by decide)).not
  rw [BreaksFormat, hrd, hre, hrs1, hrs2, wellFormed_build_iff]
  simp only [Opcode.clearMask, BitVec.and_or_distrib_left, hor, and_maskReserved_eq_zero_iff,
    Opcode.and_unused_eq_zero_iff, ← not_or, not_not, or_assoc]

theorem decode_error_iff_breaksFormat {w : Word} {o : Opcode} (h : o.code = fieldOp w) :
    (∃ e, decode w = .error e) ↔ BreaksFormat o w := by
  rw [decode_of_code h, breaksFormat_iff, ← matches_iff h]
  split_ifs with hm hw
  · exact ⟨fun ⟨_, he⟩ => (nomatch he), fun hn => absurd ⟨hm, hw⟩ hn⟩
  · exact ⟨fun _ hc => hw hc.2, fun _ => ⟨_, rfl⟩⟩
  · exact ⟨fun _ hc => hm hc.1, fun _ => ⟨_, rfl⟩⟩

/-- Settles O3: OP is no row's, or it is one row's and the word breaks that row's format. -/
theorem illegalWordsBreakTheFormat : Obligations.IllegalWordsBreakTheFormat := by
  intro w
  change (∃ e, decode w = .error e) ↔
    (∀ o : Opcode, o.code ≠ fieldOp w) ∨ ∃ o : Opcode, o.code = fieldOp w ∧ BreaksFormat o w
  by_cases h : ∃ o : Opcode, o.code = fieldOp w
  · obtain ⟨o, ho⟩ := h
    rw [decode_error_iff_breaksFormat ho]
    constructor
    · exact fun hb => .inr ⟨o, ho, hb⟩
    · rintro (hno | ⟨o', ho', hb⟩)
      · exact absurd ho (hno o)
      · rwa [← Opcode.code_injective (ho'.trans ho.symm)]
  · have hno : ∀ o : Opcode, o.code ≠ fieldOp w := fun o ho => h ⟨o, ho⟩
    exact ⟨fun _ => .inl hno, fun _ => ⟨_, decode_of_reserved hno⟩⟩

/-- Settles O4: the legal words are the encodings of their commands, and the illegal ones fail one check each. -/
theorem workedEncodingsDecode : Obligations.WorkedEncodingsDecode := by
  have hdiv : encode (.polyDiv 4 5 3 1) = 0x00135425 := by decide
  have hadd : encode (.polyAdd 3 3 2) = 0x00230322 := by decide
  have hgen : encode (.rsGen 7) = 0x00000730 := by decide
  refine ⟨?_, ?_, ?_, by decide, by decide, by decide, hdiv, hadd, hgen⟩
  · exact hdiv ▸ decodeEncodeAgree (.polyDiv 4 5 3 1) rfl
  · exact hadd ▸ decodeEncodeAgree (.polyAdd 3 3 2) rfl
  · exact hgen ▸ decodeEncodeAgree (.rsGen 7) rfl

end Sys2Proof

/-! ## Commands that fail whatever their operands are (R87, R89) -/

namespace Sys2Proof.Machine

/-! ### The turn of a running command -/

theorem turn_sequencer {s : State} {l : Latch} (hl : s.latch = some l) (hp : s.pending = [] ∨ ∃ es, s.pending = .wait :: es) :
    s.turn = .sequencer := by
  rcases hp with hp | ⟨es, hp⟩ <;> rw [State.turn, hl, hp]

theorem turn_contended {s : State} {l : Latch} {e : Event} {es : List Event} (hl : s.latch = some l)
    (hp : s.pending = e :: es) (he : e ≠ .wait) : s.turn = .contended := by
  cases e with
  | wait => exact absurd rfl he
  | access a => rw [State.turn, hl, hp]
  | powerOnReset => rw [State.turn, hl, hp]

/-- With nothing on the bus, or with the host polling, a running command completes (R92). -/
theorem step_sequencer {s : State} {l : Latch} (hl : s.latch = some l)
    (hp : s.pending = [] ∨ ∃ es, s.pending = .wait :: es) : step s = sequencerStep s := by
  rw [step, agentStep, turn_sequencer hl hp]

/-- With an access or a reset pending, a free value decides which comes first (R207). -/
theorem step_contended {s : State} {l : Latch} {e : Event} {es : List Event} (hl : s.latch = some l)
    (hp : s.pending = e :: es) (he : e ≠ .wait) : step s =
      if Config.hostFirst s.draws = true then performEvent ((s.advance 1).setPending es) e
      else sequencerStep (s.advance 1) := by
  have hhost : hostStep (s.advance 1) = performEvent ((s.advance 1).setPending es) e := by
    rw [hostStep, State.advance_pending, hp]
  rw [step, agentStep, turn_contended hl hp he, ← hhost]

/-- Settles O6: when the sequencer's turn comes, an illegal word is an E_ILLEGAL failure. -/
theorem illegalWordCompletesWithError : Obligations.IllegalWordCompletesWithError := by
  intro s l e hl hd
  refine ⟨fun hp => ⟨s.fail .illegal, ?_, ?_⟩, fun e' es hp he => ?_⟩
  · rw [step_sequencer hl hp, sequencerStep_illegal hl hd]
  · exact ⟨rfl, rfl, rfl, rfl, rfl, rfl, rfl, rfl, rfl, rfl, rfl, rfl, rfl, rfl, rfl⟩
  · have hill : sequencerStep (s.advance 1) = .next ((s.advance 1).fail .illegal) := sequencerStep_illegal hl hd
    rw [step_contended hl hp he, hill]

/-- Settles O24: the preamble's field check precedes every other check of a legal command. -/
theorem noFieldFailsEveryCommand : Obligations.NoFieldFailsEveryCommand := by
  intro s i hcfg hw hf
  have hfield := requireField_invalid hf
  cases i with
  | gfCfg => exact absurd rfl hcfg
  | gfAdd | gfMul | gfDiv | gfInv | gfExp | gfLog =>
    simp only [exec, execGfAdd, execGfMul, execGfDiv, execGfInv, execGfExp, execGfLog, hfield, bind_stop, finish_error]
  | polyDiv rd re rs1 rs2 =>
    simp only [exec, execPolyDiv, raiseIf_neg (bne_iff_ne.mp hw), hfield, bind_okay, bind_stop, finish_error]
  | polyLoad _ | polyStore _ | polyAdd _ _ _ | polyMul _ _ _ | polyMulmono _ _ =>
    simp only [exec, execPolyLoad, execPolyStore, execPolyAdd, execPolyMul, execPolyMulmono, hfield, bind_stop, finish_error]
  | polyCoef _ | polyDeg _ | polyIszero _ | polyEval _ =>
    simp only [exec, execPolyCoef, execPolyDeg, execPolyIszero, execPolyEval, hfield, bind_stop, finish_error]
  | rsGen _ | rsEncode | rsSynd =>
    simp only [exec, execRsGen, execRsEncode, execRsSynd, hfield, bind_stop, finish_error]

end Sys2Proof.Machine

/-! ## The tables are the powers of alpha (R36, R37, R100 to R103) -/

namespace Sys2Proof.Machine

/-- The cycle that R101 checks lists the powers of alpha. -/
theorem powerTable_take (m : BitVec 4) (poly : BitVec 13) :
    (powerTable m.toNat poly).take (2 ^ m.toNat - 1) = (List.range (2 ^ m.toNat - 1)).map (alphaPow m poly) := by
  apply List.ext_getElem?
  intro i
  by_cases hi : i < 2 ^ m.toNat - 1
  · rw [List.getElem?_take_of_lt hi, powerTable, powersFrom_getElem? _ _ _ _ _ (by omega), List.getElem?_map,
      List.getElem?_range hi]
    rfl
  · rw [List.getElem?_eq_none (by simp; omega), List.getElem?_eq_none (by simp; omega)]

theorem powerTable_getElem? (m : BitVec 4) (poly : BitVec 13) {i : Nat} (hi : i < 2 ^ m.toNat) :
    (powerTable m.toNat poly)[i]? = some (alphaPow m poly i) :=
  powersFrom_getElem? _ _ _ _ _ hi

/-- Settles O29: the table lists the powers of alpha, so a check of the table is a check of the powers. -/
theorem fieldCheckIsFullCycle : Obligations.FieldCheckIsFullCycle := by
  intro m poly
  have hpos : 2 ^ m.toNat - 1 < 2 ^ m.toNat := Nat.sub_lt (by positivity) one_pos
  have hdistinct : ((List.range (2 ^ m.toNat - 1)).map (alphaPow m poly)).Nodup ↔
      ∀ i j, i < j → j < 2 ^ m.toNat - 1 → alphaPow m poly i ≠ alphaPow m poly j := by
    rw [List.Nodup, List.pairwise_iff_getElem]
    simp only [List.length_map, List.length_range, List.getElem_map, List.getElem_range]
    exact ⟨fun h i j hij hj => h i j (hij.trans hj) hj hij, fun h i j _ hj hij => h i j hij hj⟩
  have hnonzero : 0 ∉ (List.range (2 ^ m.toNat - 1)).map (alphaPow m poly) ↔
      ∀ i, i < 2 ^ m.toNat - 1 → alphaPow m poly i ≠ 0 := by
    simp only [List.mem_map, List.mem_range, not_exists, not_and, ne_eq]
  rw [fieldOk_iff, powerTable_take, hdistinct, hnonzero, powerTable_getElem? m poly hpos, Option.some_inj, Nat.pow_succ']

section
variable {f : ActiveField} (hf : f.Valid)
include hf

theorem ActiveField.Valid.expTab_getElem? {i : Nat} (hi : i < f.size) : f.expTab[i]? = some (alphaPow f.am f.apoly i) := by
  rw [hf.expTab_eq]
  exact powerTable_getElem? _ _ hi

/-- alpha^(SIZE-1) = 1: the powers of alpha repeat (R101, R102). -/
theorem ActiveField.Valid.alphaPow_mod (i : Nat) :
    alphaPow f.am f.apoly (i % (f.size - 1)) = alphaPow f.am f.apoly i := by
  obtain ⟨-, -, -, -, -, -, hone⟩ := (fieldCheckIsFullCycle _ _).mp hf.1
  exact Function.IsPeriodicPt.iterate_mod_apply (n := f.size - 1) hone i

/-- R102: `gf_exp` is the power of alpha, at every exponent. -/
theorem ActiveField.Valid.gfExp_eq_alphaPow (i : Nat) : gfExp f i = alphaPow f.am f.apoly i := by
  have hsize := hf.two_le_size
  have hlt : i % (f.size - 1) < f.size := (Nat.mod_lt _ (by omega)).trans_le (Nat.sub_le _ _)
  rw [gfExp, expEntry, hf.expTab_getElem? hlt, Option.getD_some, hf.alphaPow_mod]

/-- The logarithm of a nonzero element is the exponent below SIZE - 1 whose power it is (R103). -/
theorem ActiveField.Valid.gfExp_gfLog {x : Elem} (hx : InField f x) (h0 : x ≠ 0) :
    (gfLog f x).toNat < f.size - 1 ∧ gfExp f (gfLog f x).toNat = x := by
  obtain ⟨i, hi, rfl⟩ := hf.exists_gfExp hx h0
  rw [hf.gfLog_gfExp hi]
  exact ⟨hi, rfl⟩

end

end Sys2Proof.Machine

/-! ## GF_CFG (R101) -/

namespace Sys2Proof.Machine

theorem execGfCfg_accepted {s : State} (h : fieldOk s.operands.fieldM s.operands.fieldPoly = true) :
    exec .gfCfg s = .next ((s.discardField.setField (buildField s.operands.fieldM s.operands.fieldPoly
      s.operands.fieldBase)).setFieldValid true).complete :=
  if_pos h

theorem execGfCfg_rejected {s : State} (h : fieldOk s.operands.fieldM s.operands.fieldPoly = false) :
    exec .gfCfg s = .next (((s.discardField.setField s.field.forgetTables).setFieldValid false).fail .fieldInvalid) :=
  if_neg (Bool.eq_false_iff.mp h)

/-- Settles O30: the field left is a valid one, so its tables are the powers of alpha and their logarithms. -/
theorem gfCfgBuildsField : Obligations.GfCfgBuildsField := by
  intro s hok
  have hvalid : (buildField s.operands.fieldM s.operands.fieldPoly s.operands.fieldBase).Valid := ⟨hok, rfl⟩
  refine ⟨_, execGfCfg_accepted hok, rfl, rfl, rfl, rfl, rfl, rfl, rfl, powerTable_length _ _,
    fun i hi => hvalid.expTab_getElem? hi, fun i hi => ?_, s.clearPolys_get, rfl, rfl, rfl, rfl, ⟨rfl, rfl, rfl, rfl, rfl⟩⟩
  calc (gfLog _ (alphaPow s.operands.fieldM s.operands.fieldPoly i)).toNat
    _ = (gfLog (buildField s.operands.fieldM s.operands.fieldPoly s.operands.fieldBase) (gfExp _ i)).toNat := by
      rw [hvalid.gfExp_eq_alphaPow]
      rfl
    _ = i := hvalid.gfLog_gfExp hi

/-- Settles O31: the failure starts from the state whose field and cache are discarded already. -/
theorem gfCfgRejectsInvalidField : Obligations.GfCfgRejectsInvalidField := by
  intro s hno
  exact ⟨_, execGfCfg_rejected hno, rfl, rfl, rfl, rfl, s.clearPolys_get, rfl, rfl, rfl, rfl, ⟨rfl, rfl, rfl, rfl, rfl⟩⟩

end Sys2Proof.Machine

/-! ## Doubling is linear (R100, R101)

On the elements of a field, doubling is a shift and, when the top bit is set, an xor with the polynomial; so it goes through xor, and
with it every product, which is a repeated doubling. -/

namespace Sys2Proof.Machine

/-- The polynomial has degree exactly m, for a field width m of R8 and R101. -/
structure HasDegree (m : Nat) (poly : BitVec 13) : Prop where
  pos : 1 ≤ m
  le_mMax : m ≤ 12
  topBit : poly.getLsbD m = true
  aboveTop : ∀ k, m < k → poly.getLsbD k = false

theorem ActiveField.Valid.hasDegree {f : ActiveField} (hf : f.Valid) : HasDegree f.am.toNat f.apoly := by
  obtain ⟨hpos, hle, hlo, hhi, -⟩ := (fieldCheckIsFullCycle _ _).mp hf.1
  refine ⟨hpos, hle, Nat.testBit_of_two_pow_le_and_two_pow_add_one_gt hlo hhi, fun k hk => ?_⟩
  exact Nat.testBit_lt_two_pow (hhi.trans_le (Nat.pow_le_pow_right (by decide) hk))

/-- Below 2^m the bits from m on are 0. -/
theorem getLsbD_of_lt_two_pow {w m k : Nat} {x : BitVec w} (hx : x.toNat < 2 ^ m) (hk : m ≤ k) : x.getLsbD k = false :=
  Nat.testBit_lt_two_pow (hx.trans_le (Nat.pow_le_pow_right (by decide) hk))

/-- What is xored to a shifted element to reduce it: the polynomial, when the bit that is shifted to m is set. -/
def overflow (m : Nat) (poly : BitVec 13) (x : Elem) : BitVec 13 := if x.getLsbD (m - 1) then poly else 0

theorem overflow_getLsbD (m : Nat) (poly : BitVec 13) (x : Elem) (k : Nat) :
    (overflow m poly x).getLsbD k = (x.getLsbD (m - 1) && poly.getLsbD k) := by
  cases h : x.getLsbD (m - 1) <;> simp [overflow, h]

section
variable {m : Nat} {poly : BitVec 13} (hp : HasDegree m poly)
include hp

/-- The table loop's test `x >= size` (R101) looks at the bit that is shifted to m. -/
theorem HasDegree.xtime_eq {x : Elem} (hx : x.toNat < 2 ^ m) :
    xtime m poly x = (x.setWidth 13 <<< 1 ^^^ overflow m poly x).setWidth 12 := by
  have hpow : 2 ^ m = 2 * 2 ^ (m - 1) := (mul_pow_sub_one (Nat.ne_of_gt hp.pos) 2).symm
  have hy : (x.setWidth 13 <<< 1 : BitVec 13).toNat = 2 * x.toNat := by
    simp only [BitVec.toNat_shiftLeft, BitVec.toNat_setWidth, Nat.shiftLeft_eq]
    omega
  rw [xtime, hy, overflow]
  by_cases hbig : 2 ^ (m - 1) ≤ x.toNat
  · have hbit : x.getLsbD (m - 1) = true :=
      Nat.testBit_of_two_pow_le_and_two_pow_add_one_gt hbig (by rwa [Nat.sub_add_cancel hp.pos])
    rw [if_pos (by omega), if_pos hbit]
  · have hbit : x.getLsbD (m - 1) = false := getLsbD_of_lt_two_pow (not_le.mp hbig) le_rfl
    rw [if_neg (by omega), hbit, if_neg Bool.false_ne_true]
    exact congrArg _ BitVec.xor_zero.symm

/-- The bits of a doubled element: those of m and above cancel. -/
theorem HasDegree.xtime_getLsbD {x : Elem} (hx : x.toNat < 2 ^ m) (k : Nat) :
    (xtime m poly x).getLsbD k = ((decide (1 ≤ k) && x.getLsbD (k - 1)) ^^ (x.getLsbD (m - 1) && poly.getLsbD k)) := by
  rcases Nat.lt_or_ge k 12 with hk | hk
  · rw [hp.xtime_eq hx, BitVec.getLsbD_setWidth, BitVec.getLsbD_xor, overflow_getLsbD, BitVec.getLsbD_shiftLeft,
      BitVec.getLsbD_setWidth]
    simp [hk, show k < 13 by omega, show k - 1 < 13 by omega, Nat.one_le_iff_ne_zero]
  · rw [BitVec.getLsbD_of_ge _ _ hk]
    rcases (hp.le_mMax.trans hk).eq_or_lt with rfl | hlt
    · simp [hp.pos, hp.topBit]
    · simp [hp.aboveTop k hlt, getLsbD_of_lt_two_pow hx (Nat.le_sub_one_of_lt hlt)]

theorem HasDegree.xtime_xor {x y : Elem} (hx : x.toNat < 2 ^ m) (hy : y.toNat < 2 ^ m) :
    xtime m poly (x ^^^ y) = xtime m poly x ^^^ xtime m poly y := by
  have hxy : (x ^^^ y).toNat < 2 ^ m := by simpa using Nat.xor_lt_two_pow hx hy
  apply BitVec.eq_of_getLsbD_eq
  intro k _
  simp only [hp.xtime_getLsbD hx, hp.xtime_getLsbD hy, hp.xtime_getLsbD hxy, BitVec.getLsbD_xor, Bool.and_xor_distrib_left,
    Bool.and_xor_distrib_right, Bool.xor_assoc, Bool.xor_left_comm]

/-- Below the top bit a doubling moves a single bit up. -/
theorem HasDegree.xtime_twoPow {k : Nat} (hk : k + 1 < m) :
    xtime m poly (BitVec.twoPow 12 k) = BitVec.twoPow 12 (k + 1) := by
  have hm := hp.le_mMax
  have hlt : (BitVec.twoPow 12 k).toNat < 2 ^ m := by
    rw [BitVec.toNat_twoPow_of_lt (by omega)]
    exact Nat.pow_lt_pow_right (by decide) (by omega)
  apply BitVec.eq_of_getLsbD_eq
  intro j _
  rw [hp.xtime_getLsbD hlt]
  simp only [BitVec.getLsbD_twoPow, show k ≠ m - 1 by omega, decide_false, Bool.and_false, Bool.false_and, Bool.xor_false,
    ← Bool.decide_and]
  exact decide_eq_decide.mpr (by omega)

/-- A doubled element and what it was reduced by give the shifted element back. -/
theorem HasDegree.shiftLeft_one {x : Elem} (hx : x.toNat < 2 ^ m) :
    x.setWidth 24 <<< 1 = (xtime m poly x).setWidth 24 ^^^ (overflow m poly x).setWidth 24 := by
  apply BitVec.eq_of_getLsbD_eq
  intro k hk
  simp only [BitVec.getLsbD_xor, BitVec.getLsbD_setWidth, hp.xtime_getLsbD hx, overflow_getLsbD, hk, BitVec.getLsbD_shiftLeft]
  simp [show k - 1 < 24 by omega, Nat.one_le_iff_ne_zero]
end

section
variable {f : ActiveField} (hf : f.Valid)
include hf

theorem ActiveField.Valid.xtime_inField {x : Elem} (hx : InField f x) : InField f (xtime f.am.toNat f.apoly x) := by
  obtain ⟨-, hle, hlo, hhi, -⟩ := (fieldOk_iff _ _).mp hf.1
  exact xtime_lt hle hlo hhi hx

theorem ActiveField.Valid.iterate_xtime_xor (i : Nat) {x y : Elem} (hx : InField f x) (hy : InField f y) :
    (xtime f.am.toNat f.apoly)^[i] (x ^^^ y) = (xtime f.am.toNat f.apoly)^[i] x ^^^ (xtime f.am.toNat f.apoly)^[i] y := by
  induction i generalizing x y with
  | zero => rfl
  | succ i ih =>
    simp only [Function.iterate_succ_apply, hf.hasDegree.xtime_xor hx hy]
    exact ih (hf.xtime_inField hx) (hf.xtime_inField hy)

/-- A doubling is the product with alpha, so a product with alpha^i is i doublings. -/
theorem ActiveField.Valid.gfMul_gfExp_left (i : Nat) {x : Elem} (hx : InField f x) :
    gfMul f (gfExp f i) x = (xtime f.am.toNat f.apoly)^[i] x := by
  by_cases h0 : x = 0
  · have hfix : xtime f.am.toNat f.apoly 0 = 0 := by
      simpa using hf.hasDegree.xtime_xor hx hx
    rw [h0, gfMul_zero_right, Function.iterate_fixed hfix]
  · obtain ⟨j, -, rfl⟩ := hf.exists_gfExp hx h0
    rw [hf.gfMul_gfExp, hf.gfExp_eq_alphaPow, hf.gfExp_eq_alphaPow, alphaPow, alphaPow, Function.iterate_add_apply]

/-! ### The field laws (R113) -/

theorem ActiveField.Valid.gfMul_xor {x y z : Elem} (hx : InField f x) (hy : InField f y) (hz : InField f z) :
    gfMul f x (y ^^^ z) = gfMul f x y ^^^ gfMul f x z := by
  by_cases h0 : x = 0
  · simp only [h0, gfMul_zero_left, BitVec.xor_self]
    rfl
  · obtain ⟨i, -, rfl⟩ := hf.exists_gfExp hx h0
    rw [hf.gfMul_gfExp_left i (hy.xor hz), hf.gfMul_gfExp_left i hy, hf.gfMul_gfExp_left i hz, hf.iterate_xtime_xor i hy hz]

theorem ActiveField.Valid.gfMul_assoc {x y z : Elem} (hx : InField f x) (hy : InField f y) (hz : InField f z) :
    gfMul f (gfMul f x y) z = gfMul f x (gfMul f y z) := by
  by_cases hx0 : x = 0
  · simp only [hx0, gfMul_zero_left]
  by_cases hy0 : y = 0
  · simp only [hy0, gfMul_zero_left, gfMul_zero_right]
  by_cases hz0 : z = 0
  · simp only [hz0, gfMul_zero_right]
  obtain ⟨i, -, rfl⟩ := hf.exists_gfExp hx hx0
  obtain ⟨j, -, rfl⟩ := hf.exists_gfExp hy hy0
  obtain ⟨k, -, rfl⟩ := hf.exists_gfExp hz hz0
  simp only [hf.gfMul_gfExp, Nat.add_assoc]

theorem ActiveField.Valid.gfInv_inField (x : Elem) : InField f (gfInv f x) := hf.gfExp_inField _

/-- An inverse is what 1 divided by the element is (R105, R106). -/
theorem ActiveField.Valid.gfMul_gfInv {x : Elem} (hx : InField f x) (h0 : x ≠ 0) : gfMul f x (gfInv f x) = 1 := by
  have hdiv : gfDiv f 1 x = gfInv f x := by rw [gfDiv, gfMul_comm, hf.gfMul_one (hf.gfInv_inField x)]
  rw [gfMul_comm, ← hdiv, hf.gfMul_gfDiv hf.one_inField hx h0]

/-- A quotient is the only element whose product with the divisor is the dividend. -/
theorem ActiveField.Valid.eq_gfDiv {q b : Elem} (hq : InField f q) (hb : InField f b) (h0 : b ≠ 0) :
    q = gfDiv f (gfMul f q b) b := by
  rw [gfDiv, hf.gfMul_assoc hq hb (hf.gfInv_inField b), hf.gfMul_gfInv hb h0, hf.gfMul_one hq]

end

/-- Settles O38: products are sums of exponents, and repeated doublings. -/
theorem fieldLaws : Obligations.FieldLaws := fun f hf x y _ hx hy hz =>
  ⟨hf.gfMul_inField x y, gfMul_comm f x y, hf.gfMul_assoc hx hy hz, hf.gfMul_xor hx hy hz, gfMul_zero_right f x,
    hf.gfMul_one hx, fun h0 => ⟨(hf.gfExp_gfLog hx h0).2, hf.gfMul_gfInv hx h0⟩⟩

end Sys2Proof.Machine

/-! ## Carry-less multiplication (R104, R113)

Reduction goes through xor, keeps the elements of the field and takes the shifted polynomials to 0; so it takes a shift to repeated
doubling. -/

namespace Sys2Proof.Machine

/-! ### Reduction, from the top bit down -/

/-- Clear bit k, if it is set, with the polynomial shifted to it. -/
def reduceStep (m : Nat) (poly : BitVec 13) (y : BitVec 24) (k : Nat) : BitVec 24 :=
  if y.getLsbD k then y ^^^ poly.setWidth 24 <<< (k - m) else y

/-- The reduction of the n top bits. -/
def reduceTop (m : Nat) (poly : BitVec 13) (n : Nat) (y : BitVec 24) : BitVec 24 :=
  (List.range n).foldl (fun acc j => reduceStep m poly acc (23 - j)) y

theorem reduceMod_eq (m : Nat) (poly : BitVec 13) (y : BitVec 24) :
    reduceMod m poly y = (reduceTop m poly (24 - m) y).setWidth 12 := rfl

theorem reduceTop_succ (m : Nat) (poly : BitVec 13) (n : Nat) (y : BitVec 24) :
    reduceTop m poly (n + 1) y = reduceStep m poly (reduceTop m poly n y) (23 - n) := by
  rw [reduceTop, List.range_succ, List.foldl_append]
  rfl

theorem reduceStep_of_clear {m : Nat} {poly : BitVec 13} {y : BitVec 24} {k : Nat} (h : y.getLsbD k = false) :
    reduceStep m poly y k = y := by
  rw [reduceStep, h, if_neg Bool.false_ne_true]

theorem reduceStep_of_set {m : Nat} {poly : BitVec 13} {y : BitVec 24} {k : Nat} (h : y.getLsbD k = true) :
    reduceStep m poly y k = y ^^^ poly.setWidth 24 <<< (k - m) := by
  rw [reduceStep, if_pos h]

/-- Where both bits are set the polynomial cancels, as the bits do. -/
theorem reduceStep_xor (m : Nat) (poly : BitVec 13) (y z : BitVec 24) (k : Nat) :
    reduceStep m poly (y ^^^ z) k = reduceStep m poly y k ^^^ reduceStep m poly z k := by
  cases hy : y.getLsbD k with
  | false =>
    cases hz : z.getLsbD k with
    | false => simp only [reduceStep_of_clear, BitVec.getLsbD_xor, hy, hz, Bool.xor_false]
    | true =>
      rw [reduceStep_of_clear hy, reduceStep_of_set hz, reduceStep_of_set (by simp [hy, hz])]
      ac_rfl
  | true =>
    cases hz : z.getLsbD k with
    | false =>
      rw [reduceStep_of_set hy, reduceStep_of_clear hz, reduceStep_of_set (by simp [hy, hz])]
      ac_rfl
    | true =>
      have hclear : (y ^^^ z).getLsbD k = false := by simp [hy, hz]
      rw [reduceStep_of_set hy, reduceStep_of_set hz, reduceStep_of_clear hclear]
      generalize poly.setWidth 24 <<< (k - m) = p
      rw [BitVec.xor_comm z p, BitVec.xor_assoc, ← BitVec.xor_assoc p p, BitVec.xor_self, BitVec.zero_xor]

theorem reduceTop_xor (m : Nat) (poly : BitVec 13) (n : Nat) (y z : BitVec 24) :
    reduceTop m poly n (y ^^^ z) = reduceTop m poly n y ^^^ reduceTop m poly n z := by
  induction n with
  | zero => rfl
  | succ n ih => simp only [reduceTop_succ, ih, reduceStep_xor]

theorem reduceMod_xor (m : Nat) (poly : BitVec 13) (y z : BitVec 24) :
    reduceMod m poly (y ^^^ z) = reduceMod m poly y ^^^ reduceMod m poly z := by
  rw [reduceMod_eq, reduceTop_xor, BitVec.setWidth_xor, reduceMod_eq, reduceMod_eq]

/-- Nothing is reduced below bit m. -/
theorem reduceTop_of_lt {m : Nat} (poly : BitVec 13) {n : Nat} (hn : n ≤ 24 - m) {y : BitVec 24} (hy : y.toNat < 2 ^ m) :
    reduceTop m poly n y = y := by
  induction n with
  | zero => rfl
  | succ n ih =>
    rw [reduceTop_succ, ih (by omega)]
    exact reduceStep_of_clear (getLsbD_of_lt_two_pow hy (by omega))

theorem reduceMod_of_lt {m : Nat} (poly : BitVec 13) {x : Elem} (hx : x.toNat < 2 ^ m) :
    reduceMod m poly (x.setWidth 24) = x := by
  have hwide : (x.setWidth 24).toNat < 2 ^ m := by
    rw [BitVec.toNat_setWidth]
    exact (Nat.mod_le _ _).trans_lt hx
  rw [reduceMod_eq, reduceTop_of_lt poly le_rfl hwide, BitVec.setWidth_setWidth_of_le _ (by decide), BitVec.setWidth_eq]

section
variable {m : Nat} {poly : BitVec 13} (hp : HasDegree m poly)
include hp

theorem HasDegree.getLsbD_shifted {k j : Nat} (hk : k + m < 24) (hj : k + m ≤ j) :
    (poly.setWidth 24 <<< k).getLsbD j = decide (j = k + m) := by
  have hm := hp.le_mMax
  rw [BitVec.getLsbD_shiftLeft, BitVec.getLsbD_setWidth]
  rcases hj.eq_or_lt with rfl | hlt
  · simp [hp.topBit, hk]
    omega
  · simp [hp.aboveTop (j - k) (by omega)]
    omega

/-- The polynomial shifted to a bit is cleared at that bit, and not touched before. -/
theorem HasDegree.reduceTop_shifted {k : Nat} (hk : k + m < 24) (n : Nat) :
    reduceTop m poly n (poly.setWidth 24 <<< k) = if n ≤ 23 - (k + m) then poly.setWidth 24 <<< k else 0 := by
  induction n with
  | zero => rfl
  | succ n ih =>
    rw [reduceTop_succ, ih]
    rcases Nat.lt_trichotomy n (23 - (k + m)) with h | h | h
    · rw [if_pos h.le, if_pos (Nat.succ_le_of_lt h)]
      apply reduceStep_of_clear
      rw [hp.getLsbD_shifted hk (by omega)]
      exact decide_eq_false (by omega)
    · have htop : 23 - n = k + m := by omega
      rw [if_pos h.le, if_neg (by omega), htop, reduceStep_of_set, Nat.add_sub_cancel, BitVec.xor_self]
      · rfl
      · rw [hp.getLsbD_shifted hk le_rfl]
        exact decide_eq_true rfl
    · rw [if_neg (by omega), if_neg (by omega)]
      exact reduceStep_of_clear BitVec.getLsbD_zero

theorem HasDegree.reduceMod_shifted {k : Nat} (hk : k + m < 24) : reduceMod m poly (poly.setWidth 24 <<< k) = 0 := by
  rw [reduceMod_eq, hp.reduceTop_shifted hk, if_neg (by omega)]
  rfl

theorem HasDegree.reduceMod_overflow (x : Elem) {k : Nat} (hk : k + m < 24) :
    reduceMod m poly ((overflow m poly x).setWidth 24 <<< k) = 0 := by
  cases h : x.getLsbD (m - 1) with
  | true => rw [overflow, if_pos h, hp.reduceMod_shifted hk]
  | false =>
    have hzero : (overflow m poly x).setWidth 24 <<< k = (0 : Elem).setWidth 24 := by simp [overflow, h]
    rw [hzero, reduceMod_of_lt poly (by simp)]

end

section
variable {f : ActiveField} (hf : f.Valid)
include hf

/-- A reduced shift is as many doublings. -/
theorem ActiveField.Valid.reduceMod_shiftLeft {k : Nat} (hk : k < f.am.toNat) {x : Elem} (hx : InField f x) :
    reduceMod f.am.toNat f.apoly (x.setWidth 24 <<< k) = (xtime f.am.toNat f.apoly)^[k] x := by
  have hp := hf.hasDegree
  have hm := hp.le_mMax
  induction k generalizing x with
  | zero => rw [BitVec.shiftLeft_zero, reduceMod_of_lt _ hx]; rfl
  | succ k ih =>
    rw [Nat.add_comm, BitVec.shiftLeft_add, hp.shiftLeft_one hx, BitVec.shiftLeft_xor_distrib, reduceMod_xor,
      hp.reduceMod_overflow x (by omega), ih (by omega) (hf.xtime_inField hx), Nat.add_comm, Function.iterate_succ_apply]
    exact BitVec.xor_zero

/-- The single bits of an element are the first powers of alpha. -/
theorem ActiveField.Valid.gfExp_eq_twoPow {k : Nat} (hk : k < f.am.toNat) : gfExp f k = BitVec.twoPow 12 k := by
  rw [hf.gfExp_eq_alphaPow, alphaPow]
  induction k with
  | zero => rfl
  | succ k ih => rw [Function.iterate_succ_apply', ih (by omega), hf.hasDegree.xtime_twoPow hk]

theorem ActiveField.Valid.reduceMod_shiftLeft_eq_gfMul {k : Nat} (hk : k < f.am.toNat) {x : Elem} (hx : InField f x) :
    reduceMod f.am.toNat f.apoly (x.setWidth 24 <<< k) = gfMul f x (BitVec.twoPow 12 k) := by
  rw [hf.reduceMod_shiftLeft hk hx, ← hf.gfMul_gfExp_left k hx, hf.gfExp_eq_twoPow hk, gfMul_comm]

end

/-! ### The product, bit by bit of the second factor -/

/-- The carry-less product with the n low bits of `b`. -/
def clmulLow (a b : Elem) (n : Nat) : BitVec 24 :=
  (List.range n).foldl (fun acc k => if b.getLsbD k then acc ^^^ (a.setWidth 24 <<< k) else acc) 0

theorem clmul_eq (a b : Elem) : clmul a b = clmulLow a b 12 := rfl

theorem clmulLow_succ (a b : Elem) (n : Nat) :
    clmulLow a b (n + 1) = if b.getLsbD n then clmulLow a b n ^^^ (a.setWidth 24 <<< n) else clmulLow a b n := by
  rw [clmulLow, List.range_succ, List.foldl_append]
  rfl

/-- The n low bits of `b`. -/
def lowBits (b : Elem) (n : Nat) : Elem := (b.setWidth n).setWidth 12

theorem lowBits_succ_of_clear {b : Elem} {n : Nat} (h : b.getLsbD n = false) : lowBits b (n + 1) = lowBits b n :=
  BitVec.setWidth_setWidth_succ_eq_setWidth_setWidth_of_getLsbD_false h

theorem lowBits_succ_of_set {b : Elem} {n : Nat} (h : b.getLsbD n = true) :
    lowBits b (n + 1) = lowBits b n ^^^ BitVec.twoPow 12 n := by
  apply BitVec.eq_of_getLsbD_eq
  intro k hk
  simp only [lowBits, BitVec.getLsbD_xor, BitVec.getLsbD_setWidth, BitVec.getLsbD_twoPow, hk]
  rcases Nat.lt_trichotomy k n with hlt | rfl | hgt
  · simp [hlt, hlt.ne', Nat.lt_succ_of_lt hlt]
  · simp [h, hk]
  · simp [hgt.ne, hgt.not_gt, show ¬ k < n + 1 by omega]

theorem lowBits_inField {f : ActiveField} {b : Elem} (hb : InField f b) (n : Nat) : InField f (lowBits b n) := by
  rw [InField, lowBits, BitVec.toNat_setWidth, BitVec.toNat_setWidth]
  exact ((Nat.mod_le _ _).trans (Nat.mod_le _ _)).trans_lt hb

theorem ActiveField.Valid.reduceMod_clmulLow {f : ActiveField} (hf : f.Valid) {a b : Elem} (ha : InField f a)
    (hb : InField f b) (n : Nat) : reduceMod f.am.toNat f.apoly (clmulLow a b n) = gfMul f a (lowBits b n) := by
  induction n with
  | zero =>
    have hzero : lowBits b 0 = 0 := by
      rw [lowBits, BitVec.of_length_zero (x := b.setWidth 0)]
      rfl
    rw [hzero, gfMul_zero_right]
    exact reduceMod_of_lt (x := 0) f.apoly (by simp)
  | succ n ih =>
    rw [clmulLow_succ]
    cases h : b.getLsbD n with
    | false => rw [if_neg Bool.false_ne_true, ih, lowBits_succ_of_clear h]
    | true =>
      have hn : n < f.am.toNat := by
        by_contra hge
        exact absurd h (by simp [getLsbD_of_lt_two_pow hb (not_lt.mp hge)])
      have hbit : InField f (BitVec.twoPow 12 n) := hf.gfExp_eq_twoPow hn ▸ hf.gfExp_inField n
      rw [if_pos rfl, reduceMod_xor, ih, hf.reduceMod_shiftLeft_eq_gfMul hn ha, lowBits_succ_of_set h,
        hf.gfMul_xor ha (lowBits_inField hb n) hbit]

/-- R113: the product by tables is the reduced carry-less product. -/
theorem ActiveField.Valid.clmulMod_eq_gfMul {f : ActiveField} (hf : f.Valid) {a b : Elem} (ha : InField f a)
    (hb : InField f b) : clmulMod f a b = gfMul f a b := by
  rw [clmulMod, clmul_eq, hf.reduceMod_clmulLow ha hb, lowBits, BitVec.setWidth_eq, BitVec.setWidth_eq]

end Sys2Proof.Machine

/-! ## The scalar commands in a configured field (R107 to R112) -/

namespace Sys2Proof.Machine

/-! ### Operands -/

theorem operand_inField {f : ActiveField} {v : Word} (h : v.toNat < f.size) : InField f (v.setWidth 12) := by
  rw [InField, BitVec.toNat_setWidth]
  exact (Nat.mod_le _ _).trans_lt h

/-- An operand below SIZE loses nothing in the 12 bits of an element. -/
theorem ActiveField.Valid.operand_ne_zero {f : ActiveField} (hf : f.Valid) {v : Word} (h : v.toNat < f.size) (h0 : v ≠ 0) :
    (v.setWidth 12 : Elem) ≠ 0 := by
  have hsize := hf.size_le
  intro hzero
  have hnat : v.toNat % 2 ^ 12 = 0 := by
    rw [← BitVec.toNat_setWidth, hzero]
    rfl
  rw [Nat.mod_eq_of_lt (by omega)] at hnat
  exact h0 (BitVec.eq_of_toNat_eq hnat)

theorem operand_zero_lt_size (f : ActiveField) {v : Word} (h : v = 0) : v.toNat < f.size := by
  rw [h]
  exact Nat.two_pow_pos _

/-! ### Completion -/

section
variable {s : State} (hfield : s.fieldValid = true) (h₀ : s.operands.arg0.toNat < s.field.size)
  (h₁ : s.operands.arg1.toNat < s.field.size)

include hfield in
theorem exec_gfExp_completes : exec .gfExp s = .next (s.setResult (toWord (gfExp s.field s.operands.arg0.toNat))).complete := by
  simp only [exec, execGfExp, requireField_valid hfield, bind_okay, finish_ok]

include hfield h₀ h₁ in
theorem exec_gfMul_completes : exec .gfMul s = .next (s.setResult (toWord
    (gfMul s.field (s.operands.arg0.setWidth 12) (s.operands.arg1.setWidth 12)))).complete := by
  simp only [exec, execGfMul, requireField_valid hfield, elemOperand_below h₀, elemOperand_below h₁, bind_okay, finish_ok]

include hfield h₀ h₁ in
theorem exec_gfDiv_completes (h : (s.operands.arg1.setWidth 12 : Elem) ≠ 0) : exec .gfDiv s = .next (s.setResult (toWord
    (gfDiv s.field (s.operands.arg0.setWidth 12) (s.operands.arg1.setWidth 12)))).complete := by
  simp only [exec, execGfDiv, requireField_valid hfield, elemOperand_below h₀, elemOperand_below h₁, raiseIf_neg h,
    bind_okay, finish_ok]

include hfield h₀ in
theorem exec_gfInv_completes (h : (s.operands.arg0.setWidth 12 : Elem) ≠ 0) :
    exec .gfInv s = .next (s.setResult (toWord (gfInv s.field (s.operands.arg0.setWidth 12)))).complete := by
  simp only [exec, execGfInv, requireField_valid hfield, elemOperand_below h₀, raiseIf_neg h, bind_okay, finish_ok]

include hfield h₀ in
theorem exec_gfLog_completes (h : (s.operands.arg0.setWidth 12 : Elem) ≠ 0) :
    exec .gfLog s = .next (s.setResult (toWord (gfLog s.field (s.operands.arg0.setWidth 12)))).complete := by
  simp only [exec, execGfLog, requireField_valid hfield, elemOperand_below h₀, raiseIf_neg h, bind_okay, finish_ok]

end

/-- Settles O33: the product by tables is the reduced carry-less product. -/
theorem gfMulIsCarrylessProduct : Obligations.GfMulIsCarrylessProduct := by
  intro s hfield hf h₀ h₁
  rw [exec_gfMul_completes hfield h₀ h₁, hf.clmulMod_eq_gfMul (operand_inField h₀) (operand_inField h₁)]

/-- Settles O34: the quotient times the divisor is the dividend, and the divisor cancels. -/
theorem gfDivUndoesMultiplication : Obligations.GfDivUndoesMultiplication := by
  intro s hfield hf h₀ h₁ hne
  have hb0 := hf.operand_ne_zero h₁ hne
  refine ⟨_, exec_gfDiv_completes hfield h₀ h₁ hb0, hf.gfMul_inField _ _,
    hf.gfMul_gfDiv (operand_inField h₀) (operand_inField h₁) hb0, fun q hq hprod => ?_⟩
  rw [hf.eq_gfDiv hq (operand_inField h₁) hb0, hprod]

/-- Settles O35: by the law of the inverse (R113). -/
theorem gfInvIsInverse : Obligations.GfInvIsInverse := by
  intro s hfield hf h₀ hne
  have hx0 := hf.operand_ne_zero h₀ hne
  exact ⟨_, exec_gfInv_completes hfield h₀ hx0, hf.gfInv_inField _, hf.gfMul_gfInv (operand_inField h₀) hx0⟩

/-- Settles O36: the powers of alpha repeat, so reducing the exponent changes nothing. -/
theorem gfExpIsPowerOfAlpha : Obligations.GfExpIsPowerOfAlpha := by
  intro s hfield hf
  rw [exec_gfExp_completes hfield, hf.gfExp_eq_alphaPow]

/-- Settles O37: the logarithm is the exponent of its element, and exponents below SIZE - 1 have different powers. -/
theorem gfLogIsDiscreteLog : Obligations.GfLogIsDiscreteLog := by
  intro s hfield hf h₀ hne
  have hx0 := hf.operand_ne_zero h₀ hne
  obtain ⟨hlt, hexp⟩ := hf.gfExp_gfLog (operand_inField h₀) hx0
  refine ⟨_, exec_gfLog_completes hfield h₀ hx0, hlt, (hf.gfExp_eq_alphaPow _).symm.trans hexp, fun j hj hpow => ?_⟩
  rw [← hpow, ← hf.gfExp_eq_alphaPow, hf.gfLog_gfExp hj]

/-! ### Operand errors (R202) -/

/-- Settles O32: one word has the OP and zeros elsewhere, and the checks come in the order of the preamble. -/
theorem gfAddWholeRule : Obligations.GfAddWholeRule := by
  refine ⟨by decide, fun w hop hne => ?_, fun s => ?_⟩
  · have hcode : Opcode.gfAdd.code = fieldOp w := hop.symm
    have hother : w &&& ~~~ Opcode.gfAdd.usedMask ≠ Opcode.gfAdd.code.setWidth 32 := by
      have hall : w &&& ~~~ Opcode.gfAdd.usedMask = w := BitVec.and_allOnes
      rw [hall]
      exact hne
    rw [decode_of_code hcode, if_neg hother]
  · rcases requireField_cases s with ⟨hfield, hreq⟩ | ⟨hfield, hreq⟩
    · rcases elemOperand_cases s.field s.operands.arg0 with ⟨h₀, hop₀⟩ | ⟨h₀, hop₀⟩
      · rcases elemOperand_cases s.field s.operands.arg1 with ⟨h₁, hop₁⟩ | ⟨h₁, hop₁⟩
        · rw [if_neg (by simp [hfield]), if_neg (by omega)]
          simp only [exec, execGfAdd, hreq, hop₀, hop₁, bind_okay, finish_ok]
          rfl
        · rw [if_neg (by simp [hfield]), if_pos (.inr h₁)]
          simp only [exec, execGfAdd, hreq, hop₀, hop₁, bind_okay, bind_stop, finish_error]
      · rw [if_neg (by simp [hfield]), if_pos (.inl h₀)]
        simp only [exec, execGfAdd, hreq, hop₀, bind_okay, bind_stop, finish_error]
    · rw [if_pos hfield]
      simp only [exec, execGfAdd, hreq, bind_stop, finish_error]

/-- Of two operands read one after the other, a second one out of range stops the command, whatever the first is. -/
theorem elemOperand_pair_above {α : Type} {f : ActiveField} {v w : Word} (h : f.size ≤ w.toNat)
    (k : Elem → Elem → Except Stop α) :
    (elemOperand f v >>= fun a => elemOperand f w >>= k a) = .error (.error .range) := by
  rcases elemOperand_cases f v with ⟨-, hv⟩ | ⟨-, hv⟩
  · rw [hv, bind_okay, elemOperand_above h, bind_stop]
  · rw [hv, bind_stop]

/-- Settles O39: the operands are read, and their range checked, before a zero is looked for. -/
theorem gfOperandErrors : Obligations.GfOperandErrors := by
  intro s hfield
  have hreq := requireField_valid hfield
  have hzero : ∀ {v : Word}, v = 0 → (v.setWidth 12 : Elem) = 0 := by rintro _ rfl; rfl
  refine ⟨fun h₀ i hi => ?_, fun h₁ i hi => ?_, fun h₀ h₁ => ?_, fun h₀ i hi => ?_⟩
  · have hop := elemOperand_above h₀
    simp only [List.mem_cons, List.not_mem_nil, or_false] at hi
    rcases hi with rfl | rfl | rfl | rfl | rfl <;>
      simp only [exec, execGfAdd, execGfMul, execGfDiv, execGfInv, execGfLog, hreq, hop, bind_okay, bind_stop, finish_error]
  · simp only [List.mem_cons, List.not_mem_nil, or_false] at hi
    rcases hi with rfl | rfl | rfl <;>
      simp only [exec, execGfAdd, execGfMul, execGfDiv, hreq, elemOperand_pair_above h₁, bind_okay, finish_error]
  · have hop₁ := elemOperand_below (operand_zero_lt_size s.field h₁)
    simp only [exec, execGfDiv, hreq, elemOperand_below h₀, hop₁, raiseIf_pos (hzero h₁), bind_okay, bind_stop, finish_error]
  · have hop₀ := elemOperand_below (operand_zero_lt_size s.field h₀)
    simp only [List.mem_cons, List.not_mem_nil, or_false] at hi
    rcases hi with rfl | rfl <;>
      simp only [exec, execGfInv, execGfLog, hreq, hop₀, raiseIf_pos (hzero h₀), bind_okay, bind_stop, finish_error]

end Sys2Proof.Machine

/-! ## Coefficients by degree (R12, R22, R130 to R134) -/

namespace Sys2Proof.Machine

/-! ### Elements

The laws of xor at the literal 0 the model writes; those of BitVec are stated at `0#w`. -/

theorem Elem.xor_zero (x : Elem) : x ^^^ 0 = x := BitVec.xor_zero
theorem Elem.zero_xor (x : Elem) : 0 ^^^ x = x := BitVec.zero_xor
theorem Elem.xor_self (x : Elem) : x ^^^ x = 0 := BitVec.xor_self

/-- What is added to both summands leaves their sum: an element is its own negative. -/
theorem Elem.xor_cancel (x y z : Elem) : (x ^^^ z) ^^^ (y ^^^ z) = x ^^^ y :=
  calc (x ^^^ z) ^^^ (y ^^^ z)
    _ = (x ^^^ y) ^^^ (z ^^^ z) := by ac_rfl
    _ = x ^^^ y := by rw [Elem.xor_self, Elem.xor_zero]

/-! ### Normalization (R130) -/

/-- `normalize` strips zeros and nothing else (R130). -/
theorem normalizePoly_strips (c : PolyVal) : ∃ k, c = zeros k ++ normalizePoly c := by
  induction c using normalizePoly.induct with
  | case1 => exact ⟨0, rfl⟩
  | case2 c => exact ⟨0, rfl⟩
  | case3 d rest ih =>
    obtain ⟨k, hk⟩ := ih
    refine ⟨k + 1, ?_⟩
    rw [normalizePoly_zero_cons (by simp)]
    exact congrArg (0 :: ·) hk
  | case4 c d rest hc => exact ⟨0, (normalizePoly_of_head hc _).symm⟩

/-- Settles O40: the leading zeros are taken off one by one, the last coefficient never. -/
theorem normalizeStripsLeadingZeros : Obligations.NormalizeStripsLeadingZeros := fun c hc =>
  ⟨normalizePoly_normalized hc, normalizePoly_strips c⟩

/-! ### The coefficient of a degree (R133) -/

/-- The coefficients by rising degree are the list read from its end (R133). -/
theorem coef_eq_getElem? (p : PolyVal) (d : Nat) : coef p d = p.reverse[d]?.getD 0 := by
  rcases Nat.lt_or_ge d p.length with h | h
  · rw [coef, if_pos ⟨by omega, by simp only [deg]; omega⟩, List.getElem?_reverse h, Int.toNat_natCast]
  · rw [List.getElem?_eq_none (by simpa using h), coef, Option.getD_none]
    split
    · rw [List.getElem?_eq_none (by simp only [deg] at *; omega)]; rfl
    · rfl

theorem coef_of_length_le {p : PolyVal} {d : Nat} (h : p.length ≤ d) : coef p d = 0 := by
  rw [coef_eq_getElem?, List.getElem?_eq_none (by simpa using h), Option.getD_none]

theorem coef_cons (x : Elem) (p : PolyVal) (d : Nat) : coef (x :: p) d = if d = p.length then x else coef p d := by
  rw [coef_eq_getElem?, coef_eq_getElem?, List.reverse_cons]
  rcases Nat.lt_trichotomy d p.length with h | rfl | h
  · rw [List.getElem?_append_left (by simpa using h), if_neg (by omega)]
  · simp
  · rw [List.getElem?_eq_none (by simp; omega), List.getElem?_eq_none (by simp; omega), if_neg (by omega)]

@[simp] theorem coef_nil (d : Nat) : coef [] d = 0 := coef_of_length_le (Nat.zero_le d)

@[simp] theorem coef_zeros_append (n : Nat) (p : PolyVal) (d : Nat) : coef (zeros n ++ p) d = coef p d := by
  induction n with
  | zero => rfl
  | succ n ih =>
    have hcons : zeros (n + 1) ++ p = 0 :: (zeros n ++ p) := rfl
    rw [hcons, coef_cons, ih, ite_eq_right_iff]
    rintro rfl
    exact (coef_of_length_le (by simp)).symm

@[simp] theorem coef_normalizePoly (c : PolyVal) (d : Nat) : coef (normalizePoly c) d = coef c d := by
  obtain ⟨k, hk⟩ := normalizePoly_strips c
  conv_rhs => rw [hk, coef_zeros_append]

@[simp] theorem coef_zeros (n d : Nat) : coef (zeros n) d = 0 := by
  simpa using coef_zeros_append n [] d

theorem coef_zeroPoly (d : Nat) : coef [0] d = 0 := coef_zeros 1 d

theorem coef_append_zeros (p : PolyVal) (n d : Nat) :
    coef (p ++ zeros n) d = if d < n then 0 else coef p ((d - n : Nat) : Int) := by
  induction p with
  | nil => simp
  | cons x p ih =>
    rw [List.cons_append, coef_cons, ih, coef_cons, List.length_append, zeros_length]
    by_cases hd : d < n
    · rw [if_neg (by omega), if_pos hd, if_pos hd]
    · have hplace : d = p.length + n ↔ d - n = p.length := by omega
      simp only [if_neg hd, hplace]

theorem coef_map {g : Elem → Elem} (h0 : g 0 = 0) (p : PolyVal) (d : Nat) : coef (p.map g) d = g (coef p d) := by
  induction p with
  | nil => rw [List.map_nil, coef_nil, h0]
  | cons x p ih => rw [List.map_cons, coef_cons, coef_cons, ih, List.length_map, apply_ite g]

theorem coef_xorLists {a b : PolyVal} (h : a.length = b.length) (d : Nat) :
    coef (xorLists a b) d = coef a d ^^^ coef b d := by
  induction a generalizing b with
  | nil =>
    obtain rfl := List.eq_nil_of_length_eq_zero h.symm
    simp [xorLists]
  | cons x a ih =>
    obtain ⟨y, b, rfl⟩ := List.exists_cons_of_length_eq_add_one h.symm
    have hlen : a.length = b.length := Nat.succ.inj h
    have hcons : xorLists (x :: a) (y :: b) = (x ^^^ y) :: xorLists a b := rfl
    rw [hcons, coef_cons, coef_cons, coef_cons, ih hlen, xorLists_length, hlen, min_self]
    split <;> rfl

@[simp] theorem coef_polyAdd (a b : PolyVal) (d : Nat) : coef (polyAdd a b) d = coef a d ^^^ coef b d := by
  have hlen : (zeros (max a.length b.length - a.length) ++ a).length =
      (zeros (max a.length b.length - b.length) ++ b).length := by
    simp only [List.length_append, zeros_length]
    omega
  rw [polyAdd, coef_normalizePoly, coef_xorLists hlen, coef_zeros_append, coef_zeros_append]

/-! ### A normalized polynomial is its coefficients (R22) -/

theorem Normalized.coef_deg_ne_zero {p : PolyVal} (h : Normalized p) (hz : p ≠ [0]) : coef p (deg p) ≠ 0 := by
  obtain ⟨c, rest, rfl, hc⟩ := h.eq_cons (beq_eq_false_iff_ne.mpr hz)
  have hdeg : deg (c :: rest) = rest.length := rfl
  rwa [hdeg, coef_cons, if_pos rfl]

theorem Normalized.length_le {p : PolyVal} (h : Normalized p) {n : Nat} (hn : 1 ≤ n) (h0 : ∀ d : Nat, n ≤ d → coef p d = 0) :
    p.length ≤ n := by
  by_cases hz : p = [0]
  · rw [hz]; exact hn
  · refine not_lt.mp fun hlt => h.coef_deg_ne_zero hz (h0 _ ?_)
    rw [deg]
    omega

theorem Normalized.ext {p q : PolyVal} (hp : Normalized p) (hq : Normalized q) (h : ∀ d : Nat, coef p d = coef q d) : p = q := by
  have hle : ∀ {p q : PolyVal}, Normalized p → Normalized q → (∀ d : Nat, coef p d = coef q d) → p.length ≤ q.length :=
    fun hp hq h => hp.length_le (List.length_pos_iff.mpr hq.1) fun d hd => (h d).trans (coef_of_length_le hd)
  have hlen : p.length = q.length := le_antisymm (hle hp hq h) (hle hq hp fun d => (h d).symm)
  refine List.reverse_injective (List.ext_getElem (by simpa using hlen) fun d hdp hdq => ?_)
  have hd := h d
  rwa [coef_eq_getElem?, coef_eq_getElem?, List.getElem?_eq_getElem hdp, List.getElem?_eq_getElem hdq] at hd

/-- Sums are equal when they agree at every degree. -/
theorem polyAdd_ext {a b a' b' : PolyVal} (ha : a ≠ []) (ha' : a' ≠ [])
    (h : ∀ d : Nat, coef a d ^^^ coef b d = coef a' d ^^^ coef b' d) : polyAdd a b = polyAdd a' b' :=
  (polyAdd_normalized ha).ext (polyAdd_normalized ha') fun d => by rw [coef_polyAdd, coef_polyAdd, h]

theorem Normalized.polyAdd_zero {p : PolyVal} (h : Normalized p) : polyAdd p [0] = p :=
  (polyAdd_normalized h.1).ext h fun d => by rw [coef_polyAdd, coef_zeroPoly, Elem.xor_zero]

theorem Normalized.zero_polyAdd {p : PolyVal} (h : Normalized p) : polyAdd [0] p = p :=
  (polyAdd_normalized (by simp)).ext h fun d => by rw [coef_polyAdd, coef_zeroPoly, Elem.zero_xor]

/-! ### Sums in the field -/

/-- The sum of the first `n` terms. -/
def sumTo (n : Nat) (g : Nat → Elem) : Elem := xorSum ((List.range n).map g)

@[simp] theorem sumTo_zero (g : Nat → Elem) : sumTo 0 g = 0 := rfl

theorem xorSum_concat (l : List Elem) (x : Elem) : xorSum (l ++ [x]) = xorSum l ^^^ x := List.foldl_concat ..

theorem sumTo_succ (n : Nat) (g : Nat → Elem) : sumTo (n + 1) g = sumTo n g ^^^ g n := by
  rw [sumTo, List.range_succ, List.map_append]
  exact xorSum_concat _ _

theorem sumTo_congr {n : Nat} {g h : Nat → Elem} (heq : ∀ i < n, g i = h i) : sumTo n g = sumTo n h := by
  rw [sumTo, List.map_congr_left fun i hi => heq i (List.mem_range.mp hi), sumTo]

theorem sumTo_xor (n : Nat) (g h : Nat → Elem) : sumTo n (fun i => g i ^^^ h i) = sumTo n g ^^^ sumTo n h := by
  induction n with
  | zero => exact (Elem.xor_zero 0).symm
  | succ n ih =>
    simp only [sumTo_succ, ih]
    ac_rfl

/-- Of a sum with at most one term, that term. -/
theorem sumTo_single (n k : Nat) (g : Nat → Elem) : sumTo n (fun i => if i = k then g i else 0) = if k < n then g k else 0 := by
  induction n with
  | zero => rfl
  | succ n ih =>
    rw [sumTo_succ, ih]
    rcases Nat.lt_trichotomy k n with h | rfl | h
    · rw [if_pos h, if_neg (by omega), if_pos (by omega), Elem.xor_zero]
    · rw [if_neg (by omega), if_pos rfl, if_pos (by omega), Elem.zero_xor]
    · rw [if_neg (by omega), if_neg (by omega), if_neg (by omega), Elem.xor_zero]

theorem sumTo_eq_zero {n : Nat} {g : Nat → Elem} (h : ∀ i < n, g i = 0) : sumTo n g = 0 := by
  induction n with
  | zero => rfl
  | succ n ih => rw [sumTo_succ, ih fun i hi => h i (by omega), h n (by omega), Elem.xor_zero]

end Sys2Proof.Machine

/-! ## Products and monomials (R135, R136) -/

namespace Sys2Proof.Machine

/-- The sum of the products of the coefficients whose degrees add up to `d` (R136). -/
def productCoef (f : ActiveField) (a b : PolyVal) (d : Nat) : Elem :=
  sumTo (d + 1) fun i => gfMul f (coef a i) (coef b ((d - i : Nat) : Int))

/-- A further leading coefficient adds its own products to those of the rest. -/
theorem gfMul_coef_cons (f : ActiveField) (x : Elem) (a : PolyVal) (i : Nat) (y : Elem) :
    gfMul f (coef (x :: a) i) y = (if i = a.length then gfMul f x y else 0) ^^^ gfMul f (coef a i) y := by
  rw [coef_cons]
  split
  · next h => rw [coef_of_length_le h.ge, gfMul_zero_left, Elem.xor_zero]
  · rw [Elem.zero_xor]

/-- R136: the accumulation is the convolution. -/
theorem coef_convolve (f : ActiveField) (a : PolyVal) {b : PolyVal} (hb : b ≠ []) (d : Nat) :
    coef (convolve f a b) d = productCoef f a b d := by
  induction a with
  | nil =>
    rw [convolve, coef_zeros, productCoef, sumTo_eq_zero fun i _ => by rw [coef_nil, gfMul_zero_left]]
  | cons x a ih =>
    have hlen : (b.map (fun y => gfMul f x y) ++ zeros a.length).length = (0 :: convolve f a b).length := by
      have := List.length_pos_iff.mpr hb
      simp only [List.length_append, List.length_map, zeros_length, List.length_cons, convolve_length f a b hb]
      omega
    have hzero : coef (0 :: convolve f a b) d = coef (convolve f a b) d := coef_zeros_append 1 _ d
    rw [convolve, coef_xorLists hlen, hzero, ih, coef_append_zeros, coef_map (gfMul_zero_right f x)]
    simp only [productCoef, gfMul_coef_cons, sumTo_xor, sumTo_single, Nat.lt_succ_iff, ← not_lt, ite_not]

/-- R136, R143: every coefficient of a product is the convolution's, a zero factor included. -/
theorem coef_polyMul (f : ActiveField) (a : PolyVal) {b : PolyVal} (hb : b ≠ []) (d : Nat) :
    coef (polyMul f a b) d = productCoef f a b d := by
  rw [polyMul]
  split
  · next h =>
    rw [coef_zeroPoly, productCoef, sumTo_eq_zero fun i _ => ?_]
    rcases Bool.or_eq_true_iff.mp h with h | h
    · rw [beq_iff_eq.mp h, coef_zeroPoly, gfMul_zero_left]
    · rw [beq_iff_eq.mp h, coef_zeroPoly, gfMul_zero_right]
  · rw [coef_normalizePoly, coef_convolve f a hb]

/-- R135: the coefficients are moved up by `k` and scaled. -/
theorem coef_polyMulmono (f : ActiveField) (p : PolyVal) (k : Nat) (c : Elem) (d : Nat) :
    coef (polyMulmono f p k c) d = if d < k then 0 else gfMul f (coef p ((d - k : Nat) : Int)) c := by
  rw [polyMulmono]
  split
  · next h =>
    rw [coef_zeroPoly]
    rcases h with rfl | h
    · rw [gfMul_zero_right, ite_self]
    · rw [beq_iff_eq.mp h, coef_zeroPoly, gfMul_zero_left, ite_self]
  · rw [coef_normalizePoly, coef_append_zeros, coef_map (gfMul_zero_left f c)]

/-- The monomial c x^k that an iteration of R137 adds to the quotient. -/
def monomial (c : Elem) (k : Nat) : PolyVal := normalizePoly (c :: zeros k)

theorem coef_monomial (c : Elem) (k d : Nat) : coef (monomial c k) d = if d = k then c else 0 := by
  rw [monomial, coef_normalizePoly, coef_cons, zeros_length, coef_zeros]

theorem monomial_of_ne_zero {c : Elem} (hc : c ≠ 0) (k : Nat) : monomial c k = c :: zeros k := normalizePoly_of_head hc _

theorem monomial_allInField {f : ActiveField} {c : Elem} (hc : InField f c) (k : Nat) : AllInField f (monomial c k) :=
  (AllInField.cons hc (AllInField.zeros f k)).normalize

/-- The product with a monomial is the one of R135. -/
theorem coef_polyMul_monomial (f : ActiveField) (c : Elem) (k : Nat) {b : PolyVal} (hb : b ≠ []) (d : Nat) :
    coef (polyMul f (monomial c k) b) d = coef (polyMulmono f b k c) d := by
  have hterm : ∀ (i : Nat) (y : Elem), gfMul f (coef (monomial c k) i) y = if i = k then gfMul f c y else 0 := fun i y => by
    rw [coef_monomial, apply_ite (gfMul f · y), gfMul_zero_left]
  rw [coef_polyMul f _ hb, coef_polyMulmono, productCoef]
  simp only [hterm, sumTo_single, Nat.lt_succ_iff, ← not_lt, ite_not, gfMul_comm f c]

theorem coef_inField {f : ActiveField} {p : PolyVal} (h : AllInField f p) (d : Nat) : InField f (coef p d) := by
  rw [coef_eq_getElem?]
  rcases hget : p.reverse[d]? with _ | c
  · exact InField.zero f
  · exact h c (List.mem_reverse.mp (List.mem_of_getElem? hget))

section
variable {f : ActiveField} (hf : f.Valid)
include hf

theorem ActiveField.Valid.xor_gfMul {x y z : Elem} (hx : InField f x) (hy : InField f y) (hz : InField f z) :
    gfMul f (x ^^^ y) z = gfMul f x z ^^^ gfMul f y z := by
  rw [gfMul_comm f _ z, hf.gfMul_xor hz hx hy, gfMul_comm f z, gfMul_comm f z]

/-- Products distribute over sums. -/
theorem ActiveField.Valid.coef_polyMul_polyAdd {p q b : PolyVal} (hp : AllInField f p) (hq : AllInField f q)
    (hb : AllInField f b) (hne : b ≠ []) (d : Nat) :
    coef (polyMul f (polyAdd p q) b) d = coef (polyMul f p b) d ^^^ coef (polyMul f q b) d := by
  simp only [coef_polyMul f _ hne, productCoef, ← sumTo_xor]
  exact sumTo_congr fun i _ => by
    rw [coef_polyAdd, hf.xor_gfMul (coef_inField hp _) (coef_inField hq _) (coef_inField hb _)]

theorem ActiveField.Valid.gfMul_ne_zero {a b : Elem} (ha : a ≠ 0) (hb : b ≠ 0) : gfMul f a b ≠ 0 := by
  rw [gfMul_nonzero f ha hb]
  exact hf.gfExp_ne_zero _

/-- R136: the product of nonzero polynomials leads with the product of their leading coefficients, and the degrees add. -/
theorem ActiveField.Valid.polyMul_cons (a b : PolyVal) {x y : Elem} (hx : x ≠ 0) (hy : y ≠ 0) :
    ∃ p, polyMul f (x :: a) (y :: b) = gfMul f x y :: p ∧ p.length = a.length + b.length := by
  obtain ⟨p, hp⟩ : ∃ p, convolve f (x :: a) (y :: b) = gfMul f x y :: p := ⟨_, congrArg₂ List.cons (Elem.xor_zero _) rfl⟩
  have hlen := convolve_length f (x :: a) (y :: b) (by simp)
  have hz : ¬ (isZero (x :: a) || isZero (y :: b)) = true := by
    rw [isZero_of_head hx, isZero_of_head hy]
    decide
  refine ⟨p, by rw [polyMul, if_neg hz, hp, normalizePoly_of_head (hf.gfMul_ne_zero hx hy)], ?_⟩
  rw [hp] at hlen
  simp only [List.length_cons] at hlen
  omega

theorem ActiveField.Valid.polyMul_length {a b : PolyVal} (ha : Normalized a) (hb : Normalized b) (ha0 : a ≠ [0]) (hb0 : b ≠ [0]) :
    (polyMul f a b).length = a.length + b.length - 1 := by
  obtain ⟨x, a, rfl, hx⟩ := ha.eq_cons (beq_eq_false_iff_ne.mpr ha0)
  obtain ⟨y, b, rfl, hy⟩ := hb.eq_cons (beq_eq_false_iff_ne.mpr hb0)
  obtain ⟨p, hp, hlen⟩ := hf.polyMul_cons a b hx hy
  rw [hp]
  simp only [List.length_cons]
  omega

/-- R144: the product with a nonzero multiple of x^k has k coefficients more. -/
theorem ActiveField.Valid.polyMulmono_length {p : PolyVal} (hp : Normalized p) (hp0 : p ≠ [0])
    (k : Nat) {c : Elem} (hc : c ≠ 0) : (polyMulmono f p k c).length = p.length + k := by
  have hz : isZero p = false := beq_eq_false_iff_ne.mpr hp0
  obtain ⟨x, p, rfl, hx⟩ := hp.eq_cons hz
  have hnz : ¬ (c = 0 ∨ isZero (x :: p) = true) := not_or.mpr ⟨hc, by rw [hz]; decide⟩
  rw [polyMulmono, if_neg hnz, List.map_cons, List.cons_append, normalizePoly_of_head (hf.gfMul_ne_zero hx hc)]
  simp only [List.length_cons, List.length_append, List.length_map, zeros_length]
  omega

end

theorem polyMul_zero_left (f : ActiveField) (b : PolyVal) : polyMul f [0] b = [0] := rfl
theorem polyMul_zero_right (f : ActiveField) (a : PolyVal) : polyMul f a [0] = [0] := if_pos (Bool.or_true _)

theorem polyMul_normalized (f : ActiveField) {a b : PolyVal} (ha : a ≠ []) (hb : b ≠ []) : Normalized (polyMul f a b) := by
  rw [polyMul]
  split
  · exact normalized_zero
  · have := List.length_pos_iff.mpr ha
    have := List.length_pos_iff.mpr hb
    refine normalizePoly_normalized (List.ne_nil_of_length_pos ?_)
    rw [convolve_length f a b hb]
    omega

theorem polyMul_ne_nil (f : ActiveField) {a b : PolyVal} (ha : a ≠ []) (hb : b ≠ []) : polyMul f a b ≠ [] :=
  (polyMul_normalized f ha hb).1

theorem polyMul_length_le (f : ActiveField) {a b : PolyVal} (ha : a ≠ []) (hb : b ≠ []) :
    (polyMul f a b).length ≤ a.length + b.length - 1 := by
  rw [polyMul]
  split
  · have := List.length_pos_iff.mpr ha
    have := List.length_pos_iff.mpr hb
    rw [List.length_singleton]
    omega
  · exact (normalizePoly_length_le _).trans_eq (convolve_length f a b hb)

end Sys2Proof.Machine

/-! ## Division (R137, R150) -/

namespace Sys2Proof.Machine

/-- A summand of lower degree, or zero, leaves the leading coefficient and the degree. -/
theorem polyAdd_keeps_lead {x : Elem} (hx : x ≠ 0) {p c : PolyVal} (hc : c.length ≤ p.length ∨ c = [0]) :
    ∃ q, polyAdd (x :: p) c = x :: q ∧ q.length = p.length := by
  rcases hc with hc | rfl
  · have hmax : max (x :: p).length c.length = p.length + 1 := max_eq_left (hc.trans (Nat.le_succ _))
    refine ⟨xorLists p (zeros (p.length - c.length) ++ c), ?_, by simp [hc]⟩
    rw [polyAdd, hmax, List.length_cons, Nat.sub_self, Nat.succ_sub hc]
    change normalizePoly ((x ^^^ 0) :: xorLists p (zeros (p.length - c.length) ++ c)) = _
    rw [Elem.xor_zero, normalizePoly_of_head hx]
  · exact ⟨p, Normalized.polyAdd_zero ⟨by simp, .inr (by simpa using hx)⟩, rfl⟩

/-- Without its leading monomial a polynomial is zero or of lower degree. -/
theorem polyAdd_lead_shrinks {a : PolyVal} (han : Normalized a) (ha0 : isZero a = false) :
    isZero (polyAdd a (monomial (a.headD 0) (deg a))) = true ∨ deg (polyAdd a (monomial (a.headD 0) (deg a))) < deg a := by
  obtain ⟨x, a, rfl, hx⟩ := han.eq_cons ha0
  have hmono : monomial ((x :: a).headD 0) (deg (x :: a)) = x :: zeros a.length := monomial_of_ne_zero hx _
  have hlen := List.length_pos_iff.mpr (polyAdd_normalized (a := x :: a) (b := x :: zeros a.length) (by simp)).1
  rw [hmono]
  refine (polyAdd_cancels x (zeros_length a.length).symm).imp_right fun h => ?_
  simp only [deg, List.length_cons]
  omega

section
variable {f : ActiveField} (hf : f.Valid)
include hf

/-- A monomial added to a factor adds its product with the other factor. -/
theorem ActiveField.Valid.coef_polyMul_add_monomial {a b : PolyVal} {c : Elem} (ha : AllInField f a) (hb : AllInField f b)
    (hc : InField f c) (hne : b ≠ []) (k d : Nat) :
    coef (polyMul f (polyAdd a (monomial c k)) b) d = coef (polyMul f a b) d ^^^ coef (polyMulmono f b k c) d := by
  rw [hf.coef_polyMul_polyAdd ha (monomial_allInField hc k) hb hne, coef_polyMul_monomial f c k hne]

/-- What an iteration takes from the remainder it gives to the quotient. -/
theorem ActiveField.Valid.division_step {b q r : PolyVal} (hb : AllInField f b) (hne : b ≠ []) (hq : AllInField f q)
    (hqn : q ≠ []) :
    polyAdd (polyMul f (quotientStep f b q r) b) (remainderStep f b r) = polyAdd (polyMul f q b) r := by
  have hscale : InField f (gfDiv f (r.headD 0) (b.headD 0)) := hf.gfMul_inField _ _
  have hstep : quotientStep f b q r = polyAdd q (monomial (gfDiv f (r.headD 0) (b.headD 0)) (deg r - deg b)) := rfl
  have hqn' : quotientStep f b q r ≠ [] := (polyAdd_normalized hqn).1
  refine polyAdd_ext (polyMul_ne_nil f hqn' hne) (polyMul_ne_nil f hqn hne) fun d => ?_
  rw [hstep, hf.coef_polyMul_add_monomial hq hb hscale hne, remainderStep, coef_polyAdd,
    Elem.xor_cancel]

/-- The loop keeps `q b + r`. -/
theorem ActiveField.Valid.divLoop_invariant {b : PolyVal} (hb : AllInField f b) (hne : b ≠ []) (n : Nat) {q r : PolyVal}
    (hq : PolyOk f q) (hr : PolyOk f r) :
    polyAdd (polyMul f (divLoop f b (b.headD 0) n q r).1 b) (divLoop f b (b.headD 0) n q r).2 =
      polyAdd (polyMul f q b) r := by
  induction n generalizing q r with
  | zero => rfl
  | succ n ih =>
    by_cases hgo : deg b ≤ deg r ∧ isZero r = false
    · obtain ⟨hd, hz⟩ := hgo
      rw [divLoop_step f n q hd hz, ih (hf.quotientStep_ok hq hr) (hf.remainderStep_ok hne hr hd),
        hf.division_step hb hne hq.2.2 hq.1.1]
    · rw [divLoop, if_neg hgo]

/-- R137: the dividend is the quotient times the divisor, plus the remainder. -/
theorem ActiveField.Valid.polyDivmod_spec {a b : PolyVal} (ha : PolyOk f a) (hb : AllInField f b) (hne : b ≠ []) :
    a = polyAdd (polyMul f (polyDivmod f a b).1 b) (polyDivmod f a b).2 := by
  rw [polyDivmod, hf.divLoop_invariant hb hne _ (polyOk_zero f) ha, polyMul_zero_left, ha.1.zero_polyAdd]

/-! ### The round trip, by a divisor `b` and with a remainder `c` that is reduced (R150) -/

variable {b c : PolyVal} (hb : AllInField f b) (hbn : Normalized b) (hb0 : isZero b = false) (hc : deg c < deg b ∨ c = [0])
include hb hbn hb0 hc

/-- The division of `a b + c`, with a reduced `c`, starts with the leading monomial of `a`. -/
theorem ActiveField.Valid.roundTrip_lead {a : PolyVal} (ha : AllInField f a) (han : Normalized a) (ha0 : isZero a = false) :
    deg (polyAdd (polyMul f a b) c) = deg a + deg b ∧ isZero (polyAdd (polyMul f a b) c) = false ∧
      gfDiv f ((polyAdd (polyMul f a b) c).headD 0) (b.headD 0) = a.headD 0 := by
  obtain ⟨x, a, rfl, hx⟩ := han.eq_cons ha0
  obtain ⟨y, b, rfl, hy⟩ := hbn.eq_cons hb0
  obtain ⟨p, hp, hplen⟩ := hf.polyMul_cons a b hx hy
  have hlow : c.length ≤ p.length ∨ c = [0] := hc.imp_left fun h => by
    simp only [deg, List.length_cons] at h
    omega
  have hxy := hf.gfMul_ne_zero hx hy
  obtain ⟨q, hq, hqlen⟩ := polyAdd_keeps_lead hxy hlow
  rw [hp, hq]
  exact ⟨hqlen.trans hplen, isZero_of_head hxy _, (hf.eq_gfDiv (ha _ List.mem_cons_self) (hb _ List.mem_cons_self) hy).symm⟩

/-- One iteration from `a b + c` takes the leading monomial of `a` to the quotient. -/
theorem ActiveField.Valid.roundTrip_step {a : PolyVal} (ha : AllInField f a) (han : Normalized a) (ha0 : isZero a = false)
    (n : Nat) (q : PolyVal) :
    divLoop f b (b.headD 0) (n + 1) q (polyAdd (polyMul f a b) c) =
      divLoop f b (b.headD 0) n (polyAdd q (monomial (a.headD 0) (deg a)))
        (polyAdd (polyMul f (polyAdd a (monomial (a.headD 0) (deg a))) b) c) := by
  obtain ⟨hdeg, hz, hscale⟩ := hf.roundTrip_lead hb hbn hb0 hc ha han ha0
  have hlead : InField f (a.headD 0) := hscale ▸ hf.gfMul_inField _ _
  have hrem : polyAdd (polyAdd (polyMul f a b) c) (polyMulmono f b (deg a) (a.headD 0)) =
      polyAdd (polyMul f (polyAdd a (monomial (a.headD 0) (deg a))) b) c := by
    have hprod := polyMul_ne_nil f han.1 hbn.1
    have hprod' := polyMul_ne_nil f (polyAdd_normalized (b := monomial (a.headD 0) (deg a)) han.1).1 hbn.1
    refine polyAdd_ext (polyAdd_normalized hprod).1 hprod' fun d => ?_
    simp only [coef_polyAdd, hf.coef_polyMul_add_monomial ha hb hlead hbn.1]
    ac_rfl
  rw [divLoop_step f n q (by omega) hz, quotientStep, remainderStep, hscale, hdeg, Nat.add_sub_cancel, hrem, monomial]

/-- From `a b + c` with a reduced `c`, the loop moves `a` into the quotient and leaves `c`. -/
theorem ActiveField.Valid.divLoop_roundTrip (hcn : Normalized c) (n : Nat) {q a : PolyVal} (hq : Normalized q)
    (ha : AllInField f a) (han : Normalized a) (hn : isZero a = true ∨ deg a < n) :
    divLoop f b (b.headD 0) n q (polyAdd (polyMul f a b) c) = (polyAdd q a, c) := by
  induction n generalizing q a with
  | zero =>
    obtain rfl : a = [0] := beq_iff_eq.mp (hn.resolve_right (Nat.not_lt_zero _))
    rw [polyMul_zero_left, hcn.zero_polyAdd, hq.polyAdd_zero, divLoop]
  | succ n ih =>
    cases ha0 : isZero a with
    | true =>
      obtain rfl : a = [0] := beq_iff_eq.mp ha0
      rw [polyMul_zero_left, hcn.zero_polyAdd, hq.polyAdd_zero]
      exact divLoop_stop f _ q (hc.symm.imp_left fun h => beq_iff_eq.mpr h)
    | false =>
      have hlead : InField f (a.headD 0) := by
        obtain ⟨x, rest, rfl, -⟩ := han.eq_cons ha0
        exact ha x List.mem_cons_self
      have hlt : deg a < n + 1 := hn.resolve_left (by rw [ha0]; decide)
      rw [hf.roundTrip_step hb hbn hb0 hc ha han ha0, ih (polyAdd_normalized hq.1)
        (polyAdd_allInField ha (monomial_allInField hlead _)) (polyAdd_normalized han.1)
        ((polyAdd_lead_shrinks han ha0).imp_right (by omega))]
      refine Prod.ext (polyAdd_ext (polyAdd_normalized hq.1).1 hq.1 fun d => ?_) rfl
      rw [coef_polyAdd, coef_polyAdd, Elem.xor_cancel]

/-- Dividing `a b + c` by `b`, with a reduced `c`, gives `a` and `c` (R150). -/
theorem ActiveField.Valid.polyDivmod_roundTrip (hcn : Normalized c) {a : PolyVal} (ha : AllInField f a)
    (han : Normalized a) :
    polyDivmod f (polyAdd (polyMul f a b) c) b = (a, c) := by
  rw [polyDivmod, hf.divLoop_roundTrip hb hbn hb0 hc hcn _ normalized_zero ha han ?_, han.zero_polyAdd]
  cases ha0 : isZero a with
  | true => exact .inl rfl
  | false =>
    obtain ⟨hdeg, -, -⟩ := hf.roundTrip_lead hb hbn hb0 hc ha han ha0
    exact .inr (by omega)

end

/-- Settles O47: the loop takes the monomials of the quotient off the product one by one. -/
theorem divisionRoundTrip : Obligations.DivisionRoundTrip := by
  rintro f a b c hf ⟨han, -, ha⟩ ⟨hbn, -, hb⟩ ⟨hcn, -, -⟩ hne
  have hb0 : isZero b = false := beq_eq_false_iff_ne.mpr hne
  refine ⟨fun hc => hf.polyDivmod_roundTrip hb hbn hb0 (.inl hc) hcn ha han, fun _ => ?_⟩
  have hprod := hf.polyDivmod_roundTrip hb hbn hb0 (.inr rfl) normalized_zero ha han
  rwa [(polyMul_normalized f han.1 hbn.1).polyAdd_zero] at hprod

end Sys2Proof.Machine

/-! ## The POLY commands that complete (R140 to R145, R149) -/

namespace Sys2Proof.Machine

section
variable {s : State} (hfield : s.fieldValid = true)
include hfield

theorem exec_polyLoad_completes (rd : PReg) {w : PolyVal} (hlen : s.operands.arg1.toNat = w.length) (hne : w ≠ [])
    (hfit : s.operands.arg0.toNat + w.length ≤ Config.nmax) (hw : HoldsElems s.field s.cw s.operands.arg0.toNat w) :
    exec (.polyLoad rd) s = .next (s.setPoly rd (normalizePoly w)).complete := by
  have hcount : w.length ≠ 0 := mt List.eq_nil_of_length_eq_zero hne
  simp only [exec, execPolyLoad, requireField_valid hfield, hlen, raiseIf_neg hcount, requireRange_fits hfit, memRead_holds hw,
    elemList_elems (holdsElems_inField hw), bind_okay, finish_ok]

theorem exec_polyStore_completes {rs1 : PReg} {p : PolyVal} (hp : s.polys[rs1] = some p)
    (hfit : s.operands.arg0.toNat + p.length ≤ Config.nmax) : exec (.polyStore rs1) s = .next
      ((s.setCw (memWrite s.cw s.operands.arg0.toNat (p.map toCodeword))).setResult (BitVec.ofNat 32 p.length)).complete := by
  simp only [exec, execPolyStore, requireField_valid hfield, sourcePoly_some hp, storeRange, requireRange_fits hfit, bind_okay,
    finish_ok]

theorem exec_polyAdd_completes (rd : PReg) {rs1 rs2 : PReg} {a b : PolyVal} (ha : s.polys[rs1] = some a)
    (hb : s.polys[rs2] = some b) : exec (.polyAdd rd rs1 rs2) s = .next (s.setPoly rd (polyAdd a b)).complete := by
  simp only [exec, execPolyAdd, requireField_valid hfield, sourcePoly_some ha, sourcePoly_some hb, bind_okay, finish_ok]

theorem exec_polyMul_completes (rd : PReg) {rs1 rs2 : PReg} {a b : PolyVal} (ha : s.polys[rs1] = some a)
    (hb : s.polys[rs2] = some b) (hfit : (polyMul s.field a b).length ≤ Config.nmax) :
    exec (.polyMul rd rs1 rs2) s = .next (s.setPoly rd (polyMul s.field a b)).complete := by
  simp only [exec, execPolyMul, requireField_valid hfield, sourcePoly_some ha, sourcePoly_some hb, raiseIf_neg hfit.not_gt,
    bind_okay, finish_ok]

theorem exec_polyMul_capacity (rd : PReg) {rs1 rs2 : PReg} {a b : PolyVal} (ha : s.polys[rs1] = some a)
    (hb : s.polys[rs2] = some b) (hbig : Config.nmax < (polyMul s.field a b).length) :
    exec (.polyMul rd rs1 rs2) s = .next (s.fail .capacity) := by
  simp only [exec, execPolyMul, requireField_valid hfield, sourcePoly_some ha, sourcePoly_some hb, raiseIf_pos hbig,
    bind_okay, bind_stop, finish_error]

theorem exec_polyMulmono_completes (rd : PReg) {rs1 : PReg} {p : PolyVal} (hp : s.polys[rs1] = some p)
    (hc : s.operands.arg1.toNat < s.field.size) (hfit : ¬ ((s.operands.arg1.setWidth 12 : Elem) ≠ 0 ∧ isZero p = false ∧
      Config.nmax < p.length + s.operands.arg0.toNat)) : exec (.polyMulmono rd rs1) s = .next
      (s.setPoly rd (polyMulmono s.field p s.operands.arg0.toNat (s.operands.arg1.setWidth 12))).complete := by
  simp only [exec, execPolyMulmono, requireField_valid hfield, sourcePoly_some hp, elemOperand_below hc, raiseIf_neg hfit,
    bind_okay, finish_ok]

theorem exec_polyDiv_completes {rd re rs1 rs2 : PReg} (hne : rd ≠ re) {a b : PolyVal} (ha : s.polys[rs1] = some a)
    (hb : s.polys[rs2] = some b) (hb0 : ¬ isZero b = true) : exec (.polyDiv rd re rs1 rs2) s = .next
      ((s.setPoly rd (polyDivmod s.field a b).1).setPoly re (polyDivmod s.field a b).2).complete := by
  simp only [exec, execPolyDiv, raiseIf_neg hne, requireField_valid hfield, sourcePoly_some ha, sourcePoly_some hb,
    raiseIf_neg hb0, bind_okay, finish_ok]

theorem exec_polyEval_completes {rs1 : PReg} {p : PolyVal} (hp : s.polys[rs1] = some p)
    (hx : s.operands.arg0.toNat < s.field.size) : exec (.polyEval rs1) s = .next
      (s.setResult (toWord (polyEval s.field p (s.operands.arg0.setWidth 12)))).complete := by
  simp only [exec, execPolyEval, requireField_valid hfield, sourcePoly_some hp, elemOperand_below hx, bind_okay, finish_ok]

end

/-- Settles O41: each check of POLY_LOAD passes, and its MemRead answers the elements the range holds. -/
theorem polyLoadResult : Obligations.PolyLoadResult := fun _ rd _ hfield hlen hne hfit hw =>
  exec_polyLoad_completes hfield rd hlen hne hfit hw

/-- Settles O42: the one MemWrite puts coefficient k at entry start + k. -/
theorem polyStoreResult : Obligations.PolyStoreResult := by
  intro s rs1 p hfield hp hfit
  have hcount : p.length % 2 ^ 32 = p.length := Nat.mod_eq_of_lt (by simp only [Config.nmax] at hfit; omega)
  have hout := memWrite_sameOutside s.cw s.operands.arg0.toNat (p.map toCodeword)
  rw [List.length_map] at hout
  refine ⟨_, exec_polyStore_completes hfield hp hfit, rfl, ?_, fun k hk => ?_, hout, rfl⟩
  · exact (BitVec.toNat_ofNat _ _).trans hcount
  · refine (cwGet_memWrite _ _ _ _).trans ?_
    rw [if_pos ⟨by omega, by rw [List.length_map]; omega⟩, Nat.add_sub_cancel_left, List.getElem?_map,
      List.getElem?_eq_getElem hk]
    rfl

/-- Settles O43: the padded lists are added place by place, and normalization keeps every coefficient. -/
theorem polyAddResult : Obligations.PolyAddResult := fun _ rd _ _ a b hfield ha hb hane _ =>
  ⟨polyAdd a b, exec_polyAdd_completes hfield rd ha hb, polyAdd_normalized hane, polyAdd_length_le a b, coef_polyAdd a b⟩

/-- Settles O44: normalization keeps the convolution's coefficients, and all its places when neither factor is zero. -/
theorem polyMulIsConvolution : Obligations.PolyMulIsConvolution := by
  rintro s rd rs1 rs2 a b hfield hf ha hb ⟨han, -, -⟩ ⟨hbn, -, -⟩
  refine ⟨fun hfit => ?_, fun ha0 hb0 hbig => ?_⟩
  · have hlen : (polyMul s.field a b).length ≤ Config.nmax := by
      rcases hfit with rfl | rfl | hfit
      · exact (polyOk_zero s.field).2.1
      · rw [polyMul_zero_right]
        exact (polyOk_zero s.field).2.1
      · exact (polyMul_length_le s.field han.1 hbn.1).trans hfit
    refine ⟨_, exec_polyMul_completes hfield rd ha hb hlen, hf.polyMul_ok han.1 hbn.1 hlen,
      coef_polyMul s.field a hbn.1, fun ha0 hb0 => ?_⟩
    have hla := List.length_pos_iff.mpr han.1
    have hlb := List.length_pos_iff.mpr hbn.1
    rw [deg, hf.polyMul_length han hbn ha0 hb0, deg, deg]
    omega
  · rw [← hf.polyMul_length han hbn ha0 hb0] at hbig
    exact exec_polyMul_capacity hfield rd ha hb hbig

/-- Settles O45: R135's product is shifted and scaled coefficient by coefficient. -/
theorem polyMulmonoResult : Obligations.PolyMulmonoResult := by
  intro s rd rs1 p hfield hf hp ⟨hpn, _⟩ hc hfit
  have hfit' : ¬ ((s.operands.arg1.setWidth 12 : Elem) ≠ 0 ∧ isZero p = false ∧
      Config.nmax < p.length + s.operands.arg0.toNat) := by
    rintro ⟨hc0, hp0, hbig⟩
    rcases hfit with h | rfl | hle
    · exact hc0 (by rw [h]; rfl)
    · exact absurd hp0 (by decide)
    · omega
  refine ⟨_, exec_polyMulmono_completes hfield rd hp hc hfit', hf.polyMulmono_ok hpn.1 _ _ hfit', fun k => ?_, fun k hk => ?_,
    fun hc0 hp0 => hf.polyMulmono_length hpn hp0 _ (hf.operand_ne_zero hc hc0)⟩
  · rw [coef_polyMulmono, if_neg (by omega), Nat.add_sub_cancel]
  · rw [coef_polyMulmono, if_pos hk]

/-- Settles O46: each iteration keeps `q b + r`, and the last one leaves a reduced remainder. -/
theorem polyDivIsDivisionWithRemainder : Obligations.PolyDivIsDivisionWithRemainder := by
  intro s rd re rs1 rs2 a b hne hfield hf ha hb haok hbok hb0
  have hbz : isZero b = false := beq_eq_false_iff_ne.mpr hb0
  obtain ⟨hq, hr⟩ := hf.polyDivmod_ok haok hbok.1.1
  exact ⟨_, _, exec_polyDiv_completes hfield hne ha hb (by simp [hbz]), hq, hr, hf.polyDivmod_spec haok hbok.2.2 hbok.1.1,
    (hf.polyDivmod_reduced haok hbok hbz).symm.imp_right beq_iff_eq.mp⟩

end Sys2Proof.Machine

/-! ## Horner's rule (R138, R149) -/

namespace Sys2Proof.Machine

theorem polyEval_concat (f : ActiveField) (p : PolyVal) (c x : Elem) :
    polyEval f (p ++ [c]) x = gfMul f (polyEval f p x) x ^^^ c := List.foldl_concat ..

theorem sumTo_inField {f : ActiveField} {n : Nat} {g : Nat → Elem} (hg : ∀ i, InField f (g i)) : InField f (sumTo n g) := by
  induction n with
  | zero => exact InField.zero f
  | succ n ih => rw [sumTo_succ]; exact ih.xor (hg n)

section
variable {f : ActiveField} (hf : f.Valid)
include hf

theorem ActiveField.Valid.gfPow_inField (x : Elem) (n : Nat) : InField f (gfPow f x n) := by
  cases n with
  | zero => exact hf.one_inField
  | succ n => exact hf.gfMul_inField _ _

theorem ActiveField.Valid.sumTo_gfMul (n : Nat) {g : Nat → Elem} (hg : ∀ i, InField f (g i)) {x : Elem} (hx : InField f x) :
    gfMul f (sumTo n g) x = sumTo n fun i => gfMul f (g i) x := by
  induction n with
  | zero => exact gfMul_zero_left f x
  | succ n ih => rw [sumTo_succ, sumTo_succ, hf.xor_gfMul (sumTo_inField hg) (hg n) hx, ih]

/-- A further coefficient multiplies every power by the point once more. -/
theorem ActiveField.Valid.evalSum_concat {p : PolyVal} {c x : Elem} (hp : AllInField f p) (hc : InField f c) (hx : InField f x) :
    evalSum f (p ++ [c]) x = gfMul f (evalSum f p x) x ^^^ c := by
  have hsum : ∀ q : PolyVal, evalSum f q x =
      sumTo q.length fun k => gfMul f (q[k]?.getD 0) (gfPow f x (q.length - 1 - k)) := fun _ => rfl
  have hlast : gfMul f ((p ++ [c])[p.length]?.getD 0) (gfPow f x (p.length + 1 - 1 - p.length)) = c := by
    rw [List.getElem?_concat_length, Option.getD_some, Nat.add_sub_cancel, Nat.sub_self]
    exact hf.gfMul_one hc
  rw [hsum, hsum, List.length_append, List.length_singleton, sumTo_succ, hlast,
    hf.sumTo_gfMul _ (fun _ => hf.gfMul_inField _ _) hx]
  refine congrArg (· ^^^ c) (sumTo_congr fun k hk => ?_)
  have hpow : p.length + 1 - 1 - k = p.length - 1 - k + 1 := by omega
  have hpk : InField f (p[k]?.getD 0) := by
    rw [List.getElem?_eq_getElem hk]
    exact hp _ (List.getElem_mem hk)
  rw [List.getElem?_append_left hk, hpow, gfPow, hf.gfMul_assoc hpk (hf.gfPow_inField x _) hx]

/-- R138: Horner's rule is the sum of the coefficients times the powers of the point. -/
theorem ActiveField.Valid.polyEval_eq_evalSum {p : PolyVal} {x : Elem} (hp : AllInField f p) (hx : InField f x) :
    polyEval f p x = evalSum f p x := by
  induction p using List.reverseRecOn with
  | nil => rfl
  | append_singleton p c ih =>
    have hp' : AllInField f p := fun y hy => hp y (List.mem_append_left _ hy)
    rw [polyEval_concat, ih hp', hf.evalSum_concat hp' (hp c (by simp)) hx]

end

/-- Settles O49: POLY_EVAL runs Horner's rule, which is the power sum. -/
theorem polyEvalIsPowerSum : Obligations.PolyEvalIsPowerSum := by
  intro s rs1 p hfield hf hp ⟨_, _, hin⟩ hx
  rw [exec_polyEval_completes hfield hp hx, hf.polyEval_eq_evalSum hin (operand_inField hx)]

end Sys2Proof.Machine

/-! ## The POLY queries, whole (R146 to R148) -/

namespace Sys2Proof.Machine

/-- A word of a row that uses RS1 alone is illegal when another bit above OP is set (R86). -/
theorem decode_rs1_reserved {w : Word} {o : Opcode} (hop : o.code = fieldOp w) (hmask : ~~~0x000700FF = o.clearMask)
    (hw : w &&& ~~~0x000700FF ≠ 0) : decode w = .error .reservedBits := by
  rw [decode_of_code hop, if_neg ((matches_iff hop).not.mpr (hmask ▸ hw))]

section
variable {s : State} {r : PReg} {p : PolyVal} (hfield : s.fieldValid = true) (hp : s.polys[r] = some p)
include hfield hp

theorem exec_polyCoef_completes :
    exec (.polyCoef r) s = .next (s.setResult (toWord (coef p (signed32 s.operands.arg0)))).complete := by
  simp only [exec, execPolyCoef, requireField_valid hfield, sourcePoly_some hp, bind_okay, finish_ok]

theorem exec_polyDeg_completes : exec (.polyDeg r) s = .next (s.setResult (BitVec.ofNat 32 (deg p))).complete := by
  simp only [exec, execPolyDeg, requireField_valid hfield, sourcePoly_some hp, bind_okay, finish_ok]

theorem exec_polyIszero_completes :
    exec (.polyIszero r) s = .next (s.setResult (if isZero p then 1 else 0)).complete := by
  simp only [exec, execPolyIszero, requireField_valid hfield, sourcePoly_some hp, bind_okay, finish_ok]

end

/-- R133, with the bound on the degree as one on the list's length. -/
theorem coef_eq_ite_length (p : PolyVal) (d : Int) :
    coef p d = if 0 ≤ d ∧ d < p.length then p[p.length - 1 - d.toNat]?.getD 0 else 0 := by
  cases p with
  | nil => simp [coef]
  | cons x p => simp only [coef, deg, List.length_cons, Nat.add_sub_cancel, Nat.cast_succ, Int.lt_add_one_iff]

/-- Settles O48: the rows use RS1 alone, and the preamble is that of every command. -/
theorem polyQueriesWholeRules : Obligations.PolyQueriesWholeRules := by
  refine ⟨by decide, fun w hop hw => ?_, fun s r hfield i hi => ?_, fun s r hfield hnone i hi => ?_, fun s r p hfield hp => ?_⟩
  · rcases hop with hop | hop | hop
    · exact decode_rs1_reserved (o := .polyCoef) hop.symm (by decide) hw
    · exact decode_rs1_reserved (o := .polyDeg) hop.symm (by decide) hw
    · exact decode_rs1_reserved (o := .polyIszero) hop.symm (by decide) hw
  · have hform : i ≠ .gfCfg ∧ i.wellFormed = true := by
      simp only [List.mem_cons, List.not_mem_nil, or_false] at hi
      rcases hi with rfl | rfl | rfl <;> exact ⟨Instr.noConfusion, rfl⟩
    exact noFieldFailsEveryCommand s i hform.1 hform.2 hfield
  · have hform : i.wellFormed = true ∧ i.sources = [r] := by
      simp only [List.mem_cons, List.not_mem_nil, or_false] at hi
      rcases hi with rfl | rfl | rfl <;> exact ⟨rfl, rfl⟩
    exact invalidSourceFails s i hform.1 hfield ⟨r, by simp [hform.2], hnone⟩
  · refine ⟨?_, exec_polyDeg_completes hfield hp, ?_⟩
    · rw [exec_polyCoef_completes hfield hp, coef_eq_ite_length, signed32]
    · rw [exec_polyIszero_completes hfield hp]
      simp only [isZero, beq_iff_eq]

end Sys2Proof.Machine

/-! ## The POLY commands' operand errors (R140 to R149, R202) -/

namespace Sys2Proof.Machine

/-- A nonzero operand below a size of at most 4096 is a nonzero element. -/
theorem operand_ne_zero_of_size_le {f : ActiveField} (hsize : f.size ≤ 4096) {v : Word} (h : v.toNat < f.size) (h0 : v ≠ 0) :
    (v.setWidth 12 : Elem) ≠ 0 := by
  intro hzero
  have hnat := congrArg BitVec.toNat hzero
  rw [BitVec.toNat_setWidth, Nat.mod_eq_of_lt (by omega)] at hnat
  exact h0 (BitVec.eq_of_toNat_eq hnat)

section
variable {s : State} (hfield : s.fieldValid = true)
include hfield

theorem exec_polyLoad_empty (rd : PReg) (h : s.operands.arg1 = 0) : exec (.polyLoad rd) s = .next (s.fail .empty) := by
  have hn : s.operands.arg1.toNat = 0 := by rw [h]; rfl
  simp only [exec, execPolyLoad, requireField_valid hfield, raiseIf_pos hn, bind_okay, bind_stop, finish_error]

theorem exec_polyLoad_capacity (rd : PReg) (h : s.operands.arg1 ≠ 0)
    (hbig : Config.nmax < s.operands.arg0.toNat + s.operands.arg1.toNat) :
    exec (.polyLoad rd) s = .next (s.fail .capacity) := by
  have hn : s.operands.arg1.toNat ≠ 0 := fun h0 => h (BitVec.eq_of_toNat_eq h0)
  simp only [exec, execPolyLoad, requireField_valid hfield, raiseIf_neg hn, requireRange_exceeds hbig, bind_okay, bind_stop,
    finish_error]

theorem exec_polyLoad_range (rd : PReg) {ws : List Codeword} (hlen : s.operands.arg1.toNat = ws.length) (hne : ws ≠ [])
    (hfit : s.operands.arg0.toNat + ws.length ≤ Config.nmax)
    (hws : ∀ k, k < ws.length → cwGet s.cw (s.operands.arg0.toNat + k) = ws[k]?) (hbig : ∃ v ∈ ws, s.field.size ≤ v.toNat) :
    exec (.polyLoad rd) s = .next (s.fail .range) := by
  have hn : ws.length ≠ 0 := mt List.eq_nil_of_length_eq_zero hne
  have hread : memRead s.cw s.operands.arg0.toNat ws.length = .ok ws := (memRead_ok_iff ..).mpr ⟨rfl, hws⟩
  have helems : elemList s.field ws = .error (.error .range) := by
    rcases elemList_cases s.field ws with ⟨hall, -⟩ | ⟨-, h⟩
    · obtain ⟨v, hv, hge⟩ := hbig
      exact absurd (hall v hv) hge.not_gt
    · exact h
  simp only [exec, execPolyLoad, requireField_valid hfield, hlen, raiseIf_neg hn, requireRange_fits hfit, hread, helems,
    bind_okay, bind_stop, finish_error]

variable {rs1 : PReg} {p : PolyVal} (hp : s.polys[rs1] = some p)
include hp

theorem exec_polyStore_capacity (hbig : Config.nmax < s.operands.arg0.toNat + p.length) :
    exec (.polyStore rs1) s = .next (s.fail .capacity) := by
  simp only [exec, execPolyStore, requireField_valid hfield, sourcePoly_some hp, storeRange, requireRange_exceeds hbig,
    bind_okay, bind_stop, finish_error]

theorem exec_polyMulmono_range (rd : PReg) (hc : s.field.size ≤ s.operands.arg1.toNat) :
    exec (.polyMulmono rd rs1) s = .next (s.fail .range) := by
  simp only [exec, execPolyMulmono, requireField_valid hfield, sourcePoly_some hp, elemOperand_above hc, bind_okay, bind_stop,
    finish_error]

theorem exec_polyMulmono_capacity (rd : PReg) (hc : s.operands.arg1.toNat < s.field.size)
    (hbig : (s.operands.arg1.setWidth 12 : Elem) ≠ 0 ∧ isZero p = false ∧ Config.nmax < p.length + s.operands.arg0.toNat) :
    exec (.polyMulmono rd rs1) s = .next (s.fail .capacity) := by
  simp only [exec, execPolyMulmono, requireField_valid hfield, sourcePoly_some hp, elemOperand_below hc, raiseIf_pos hbig,
    bind_okay, bind_stop, finish_error]

theorem exec_polyEval_range (hx : s.field.size ≤ s.operands.arg0.toNat) : exec (.polyEval rs1) s = .next (s.fail .range) := by
  simp only [exec, execPolyEval, requireField_valid hfield, sourcePoly_some hp, elemOperand_above hx, bind_okay, bind_stop,
    finish_error]

theorem exec_polyDiv_byZero {rd re rs2 : PReg} (hne : rd ≠ re) (hb : s.polys[rs2] = some [0]) :
    exec (.polyDiv rd re rs1 rs2) s = .next (s.fail .polyDivZero) := by
  simp only [exec, execPolyDiv, raiseIf_neg hne, requireField_valid hfield, sourcePoly_some hp, sourcePoly_some hb,
    raiseIf_pos (show isZero [0] = true from rfl), bind_okay, bind_stop, finish_error]

end

/-- Settles O50: each error's check is reached, since the checks before it pass. -/
theorem polyOperandErrors : Obligations.PolyOperandErrors := by
  intro s rd re rs1 rs2 hfield
  refine ⟨exec_polyLoad_empty hfield rd, exec_polyLoad_capacity hfield rd,
    fun ws hlen hne hfit hws hbig => exec_polyLoad_range hfield rd hlen hne hfit hws hbig, fun p hp => ?_⟩
  exact ⟨exec_polyStore_capacity hfield hp, exec_polyMulmono_range hfield hp rd,
    fun hsize hc hc0 hp0 hbig => exec_polyMulmono_capacity hfield hp rd hc
      ⟨operand_ne_zero_of_size_le hsize hc hc0, beq_eq_false_iff_ne.mpr hp0, hbig⟩,
    exec_polyEval_range hfield hp, exec_polyDiv_byZero hfield hp⟩

end Sys2Proof.Machine

/-! ## Evaluation of sums and products (R134 to R138)

Evaluation at a point is a homomorphism: it takes sums to sums and products to products. -/

namespace Sys2Proof.Machine

@[simp] theorem polyEval_nil (f : ActiveField) (x : Elem) : polyEval f [] x = 0 := rfl

theorem polyEval_singleton (f : ActiveField) (c x : Elem) : polyEval f [c] x = c := by
  rw [← List.nil_append [c], polyEval_concat, polyEval_nil, gfMul_zero_left, Elem.zero_xor]

@[simp] theorem polyEval_zero_cons (f : ActiveField) (p : PolyVal) (x : Elem) : polyEval f (0 :: p) x = polyEval f p x := by
  have hstep : gfMul f 0 x ^^^ 0 = 0 := by rw [gfMul_zero_left, Elem.xor_zero]
  exact congrArg (List.foldl _ · p) hstep

@[simp] theorem polyEval_zeros_append (f : ActiveField) (n : Nat) (p : PolyVal) (x : Elem) :
    polyEval f (zeros n ++ p) x = polyEval f p x := by
  induction n with
  | zero => rfl
  | succ n ih => exact (polyEval_zero_cons f _ x).trans ih

@[simp] theorem polyEval_zeros (f : ActiveField) (n : Nat) (x : Elem) : polyEval f (zeros n) x = 0 := by
  simpa using polyEval_zeros_append f n [] x

@[simp] theorem polyEval_normalizePoly (f : ActiveField) (p : PolyVal) (x : Elem) :
    polyEval f (normalizePoly p) x = polyEval f p x := by
  obtain ⟨k, hk⟩ := normalizePoly_strips p
  conv_rhs => rw [hk, polyEval_zeros_append]

section
variable {f : ActiveField} (hf : f.Valid)
include hf

theorem ActiveField.Valid.polyEval_inField {p : PolyVal} (hp : AllInField f p) (x : Elem) : InField f (polyEval f p x) := by
  cases p using List.reverseRecOn with
  | nil => exact InField.zero f
  | append_singleton p c => rw [polyEval_concat]; exact (hf.gfMul_inField _ _).xor (hp c (by simp))

variable {x : Elem} (hx : InField f x)
include hx

/-- What stands before `q` is worth `x^(len q)` times its own value. -/
theorem ActiveField.Valid.polyEval_append {p q : PolyVal} (hp : AllInField f p) (hq : AllInField f q) :
    polyEval f (p ++ q) x = gfMul f (polyEval f p x) (gfPow f x q.length) ^^^ polyEval f q x := by
  have hpx := hf.polyEval_inField hp x
  induction q using List.reverseRecOn with
  | nil => rw [List.append_nil, List.length_nil, gfPow, hf.gfMul_one hpx, polyEval_nil, Elem.xor_zero]
  | append_singleton q c ih =>
    have hq' : AllInField f q := fun y hy => hq y (List.mem_append_left _ hy)
    have hpow := hf.gfPow_inField x q.length
    rw [← List.append_assoc, polyEval_concat, ih hq', polyEval_concat, List.length_append, List.length_singleton, gfPow,
      hf.xor_gfMul (hf.gfMul_inField _ _) (hf.polyEval_inField hq' x) hx, hf.gfMul_assoc hpx hpow hx]
    ac_rfl

theorem ActiveField.Valid.polyEval_cons {c : Elem} {p : PolyVal} (hc : InField f c) (hp : AllInField f p) :
    polyEval f (c :: p) x = gfMul f c (gfPow f x p.length) ^^^ polyEval f p x := by
  rw [← polyEval_singleton f c x, ← hf.polyEval_append hx (List.forall_mem_singleton.mpr hc) hp, polyEval_singleton]
  rfl

theorem ActiveField.Valid.polyEval_append_zeros {p : PolyVal} (hp : AllInField f p) (n : Nat) :
    polyEval f (p ++ zeros n) x = gfMul f (polyEval f p x) (gfPow f x n) := by
  rw [hf.polyEval_append hx hp (AllInField.zeros f n), polyEval_zeros, Elem.xor_zero, zeros_length]

theorem ActiveField.Valid.polyEval_xorLists {p q : PolyVal} (hlen : p.length = q.length) (hp : AllInField f p)
    (hq : AllInField f q) : polyEval f (xorLists p q) x = polyEval f p x ^^^ polyEval f q x := by
  induction p generalizing q with
  | nil =>
    obtain rfl := List.eq_nil_of_length_eq_zero hlen.symm
    exact (Elem.xor_zero 0).symm
  | cons c p ih =>
    obtain ⟨d, q, rfl⟩ := List.exists_cons_of_length_eq_add_one hlen.symm
    obtain ⟨hc, hp⟩ := List.forall_mem_cons.mp hp
    obtain ⟨hd, hq⟩ := List.forall_mem_cons.mp hq
    have hlen : p.length = q.length := Nat.succ.inj hlen
    have hcons : xorLists (c :: p) (d :: q) = (c ^^^ d) :: xorLists p q := rfl
    rw [hcons, hf.polyEval_cons hx (hc.xor hd) (AllInField.xorLists hp hq), ih hlen hp hq, hf.polyEval_cons hx hc hp,
      hf.polyEval_cons hx hd hq, xorLists_length, hlen, min_self, hf.xor_gfMul hc hd (hf.gfPow_inField x _)]
    ac_rfl

theorem ActiveField.Valid.polyEval_map_gfMul {c : Elem} (hc : InField f c) {p : PolyVal} (hp : AllInField f p) :
    polyEval f (p.map fun y => gfMul f c y) x = gfMul f c (polyEval f p x) := by
  induction p with
  | nil => exact (gfMul_zero_right f c).symm
  | cons y p ih =>
    obtain ⟨hy, hp⟩ := List.forall_mem_cons.mp hp
    have hpow := hf.gfPow_inField x p.length
    have hmap : AllInField f (p.map fun y => gfMul f c y) := hf.allInField_map_gfMul p (fun _ => c) id
    rw [List.map_cons, hf.polyEval_cons hx (hf.gfMul_inField _ _) hmap, ih hp,
      hf.polyEval_cons hx hy hp, hf.gfMul_xor hc (hf.gfMul_inField _ _) (hf.polyEval_inField hp x),
      List.length_map, hf.gfMul_assoc hc hy hpow]

/-- The convolution evaluates to the product: each coefficient of `p` adds its own multiple of `q` (R136). -/
theorem ActiveField.Valid.polyEval_convolve {p q : PolyVal} (hp : AllInField f p) (hq : AllInField f q) (hne : q ≠ []) :
    polyEval f (convolve f p q) x = gfMul f (polyEval f p x) (polyEval f q x) := by
  induction p with
  | nil => rw [convolve, polyEval_zeros, polyEval_nil, gfMul_zero_left]
  | cons c p ih =>
    obtain ⟨hc, hp⟩ := List.forall_mem_cons.mp hp
    have hmap : AllInField f (q.map fun y => gfMul f c y) := hf.allInField_map_gfMul q (fun _ => c) id
    have hlen : (q.map (fun y => gfMul f c y) ++ zeros p.length).length = (0 :: convolve f p q).length := by
      have := List.length_pos_iff.mpr hne
      simp only [List.length_append, List.length_map, zeros_length, List.length_cons, convolve_length f p q hne]
      omega
    have hpow := hf.gfPow_inField x p.length
    have hqx := hf.polyEval_inField hq x
    calc polyEval f (convolve f (c :: p) q) x
      _ = gfMul f (gfMul f c (polyEval f q x)) (gfPow f x p.length) ^^^ gfMul f (polyEval f p x) (polyEval f q x) := by
        rw [convolve, hf.polyEval_xorLists hx hlen (hmap.append (AllInField.zeros f _))
          (.cons (InField.zero f) (hf.convolve_allInField p q)), polyEval_zero_cons, ih hp,
          hf.polyEval_append_zeros hx hmap, hf.polyEval_map_gfMul hx hc hq]
      _ = gfMul f (gfMul f c (gfPow f x p.length)) (polyEval f q x) ^^^ gfMul f (polyEval f p x) (polyEval f q x) := by
        rw [hf.gfMul_assoc hc hqx hpow, gfMul_comm f (polyEval f q x), ← hf.gfMul_assoc hc hpow hqx]
      _ = gfMul f (polyEval f (c :: p) x) (polyEval f q x) := by
        rw [← hf.xor_gfMul (hf.gfMul_inField _ _) (hf.polyEval_inField hp x) hqx, ← hf.polyEval_cons hx hc hp]

/-- A product evaluates to the product of the values (R136, R138). -/
theorem ActiveField.Valid.polyEval_polyMul {p q : PolyVal} (hp : AllInField f p) (hq : AllInField f q) (hne : q ≠ []) :
    polyEval f (polyMul f p q) x = gfMul f (polyEval f p x) (polyEval f q x) := by
  have hzero : polyEval f [0] x = 0 := polyEval_singleton f 0 x
  rw [polyMul]
  split
  · next hz =>
    rcases Bool.or_eq_true_iff.mp hz with h | h
    · rw [beq_iff_eq.mp h, hzero, gfMul_zero_left]
    · rw [beq_iff_eq.mp h, hzero, gfMul_zero_right]
  · rw [polyEval_normalizePoly, hf.polyEval_convolve hx hp hq hne]

end

end Sys2Proof.Machine

/-! ## Generator polynomials and the cache (R170 to R172) -/

namespace Sys2Proof.Machine

section
variable {f : ActiveField} (hf : f.Valid)
include hf

theorem ActiveField.Valid.polyMul_allInField (p q : PolyVal) : AllInField f (polyMul f p q) := by
  rw [polyMul]
  split
  · exact AllInField.zeros f 1
  · exact (hf.convolve_allInField p q).normalize

theorem ActiveField.Valid.generator_allInField (d : Nat) : AllInField f (generator f d) := by
  cases d with
  | zero => exact List.forall_mem_singleton.mpr hf.one_inField
  | succ d => exact hf.polyMul_allInField _ _

/-- The factor `x - r` of R170, evaluated. -/
theorem ActiveField.Valid.polyEval_linear {r x : Elem} (hx : InField f x) : polyEval f [1, r] x = x ^^^ r := by
  rw [← List.singleton_append, polyEval_concat, polyEval_singleton, gfMul_comm, hf.gfMul_one hx]

/-- g_d is zero at alpha^(BASE + j) for j < d: its last factor is zero at the last of these, the others divide g_(d-1). -/
theorem ActiveField.Valid.polyEval_generator {d j : Nat} (hj : j < d) :
    polyEval f (generator f d) (gfExp f (j + f.abase.toNat)) = 0 := by
  induction d with
  | zero => omega
  | succ d ih =>
    have hroot := hf.gfExp_inField (j + f.abase.toNat)
    have hfactor : AllInField f [1, gfExp f (d + f.abase.toNat)] :=
      .cons hf.one_inField (List.forall_mem_singleton.mpr (hf.gfExp_inField _))
    rw [generator, hf.polyEval_polyMul hroot (hf.generator_allInField d) hfactor (by simp), hf.polyEval_linear hroot]
    rcases Nat.lt_succ_iff_lt_or_eq.mp hj with hlt | rfl
    · rw [ih hlt, gfMul_zero_left]
    · rw [Elem.xor_self, gfMul_zero_right]

end

/-- Settles O52: each factor adds a degree, keeps the leading 1 and adds its root. -/
theorem generatorHasItsRoots : Obligations.GeneratorHasItsRoots := by
  intro f d hf
  obtain ⟨q, hq, -⟩ := hf.generator_monic d
  exact ⟨hf.generator_length d, by rw [hq, List.head?_cons], fun j hj => hf.polyEval_generator hj⟩

/-- CACHE_DEG shows the degree of the last cached generator, at every length the cache can have (R35). -/
theorem State.cacheDeg_toNat {s : State} (h : s.cache.length ≤ Config.nmax) : s.cacheDeg.toNat = s.cache.length - 1 := by
  simp only [Config.nmax] at h
  rw [State.cacheDeg, BitVec.toNat_setWidth, BitVec.toNat_ofNat]
  omega

/-- What the cache is after `build_generator(d)`, in a state that meets the invariant (R171). -/
theorem State.Inv.cacheFor_spec {s t : State} (h : s.Inv) (hfield : s.fieldValid = true) {d : Nat} (hd : d < Config.nmax)
    (ht : t.cache = cacheFor s.field s.cache d) :
    s.cache <+: t.cache ∧ t.cacheDeg.toNat = max s.cacheDeg.toNat d ∧ d < t.cache.length ∧
      ∀ k, k < t.cache.length → t.cache[k]? = some (generator s.field k) := by
  obtain ⟨hpos, hle⟩ := h.cacheSize
  have hlen : t.cache.length = max s.cache.length (d + 1) := by rw [ht, cacheFor_length]
  refine ⟨ht ▸ cacheFor_keeps _ _ d, ?_, by omega, ht ▸ extendCache_generators _ _ hpos (h.cacheGenerators hfield)⟩
  rw [State.cacheDeg_toNat (by omega), State.cacheDeg_toNat hle]
  omega

theorem State.Inv.buildGenerator_eq {s : State} (h : s.Inv) (hfield : s.fieldValid = true) (d : Nat) :
    buildGenerator s.field s.cache d = generator s.field d :=
  Machine.buildGenerator_eq _ h.cacheSize.1 (h.cacheGenerators hfield) d

theorem exec_rsGen_completes {s : State} (hfield : s.fieldValid = true) (rd : PReg)
    (hd : s.operands.arg0.toNat < Config.nmax) : exec (.rsGen rd) s = .next
      ((s.setCache (cacheFor s.field s.cache s.operands.arg0.toNat)).setPoly rd
        (buildGenerator s.field s.cache s.operands.arg0.toNat)).complete := by
  have hcap : ¬ Config.nmax - 1 < s.operands.arg0.toNat := by omega
  simp only [exec, execRsGen, requireField_valid hfield, raiseIf_neg hcap, bind_okay, finish_ok]

theorem exec_rsGen_capacity {s : State} (hfield : s.fieldValid = true) (rd : PReg)
    (hd : Config.nmax ≤ s.operands.arg0.toNat) : exec (.rsGen rd) s = .next (s.fail .capacity) := by
  have hcap : Config.nmax - 1 < s.operands.arg0.toNat := by
    simp only [Config.nmax] at hd ⊢
    omega
  simp only [exec, execRsGen, requireField_valid hfield, raiseIf_pos hcap, bind_okay, bind_stop, finish_error]

/-- Settles O51: the cache holds generators before and after, so the entry RS_GEN returns is g_d. -/
theorem rsGenReturnsGenerator : Obligations.RsGenReturnsGenerator := by
  intro s rd hinv hfield
  refine ⟨fun hd => ?_, exec_rsGen_capacity hfield rd⟩
  have hcompletes := exec_rsGen_completes hfield rd hd
  rw [hinv.buildGenerator_eq hfield] at hcompletes
  obtain ⟨hkeeps, hdeg, -, hgen⟩ := hinv.cacheFor_spec hfield hd
    (t := s.setCache (cacheFor s.field s.cache s.operands.arg0.toNat)) rfl
  exact ⟨_, hcompletes, State.setPoly_get_same _ rd _, hkeeps, hdeg, hgen, fun j hj => State.setPoly_get_other _ _ hj, rfl⟩

end Sys2Proof.Machine

/-! ## Reading and writing elements (R13, R40) -/

namespace Sys2Proof.Machine

section
variable {α : Type} {f : ActiveField} {m : Memory} {a : Nat}

/-- Reading a range that holds elements answers them. -/
theorem readElems_holds {w : PolyVal} (h : HoldsElems f m a w) (k : PolyVal → Except Stop α) :
    (memRead m a w.length >>= fun ws => elemList f ws >>= k) = k w := by
  rw [memRead_holds h, bind_okay, elemList_elems (holdsElems_inField h), bind_okay]

/-- Reading a range whose codewords are not all elements is E_RANGE (R40). -/
theorem readElems_range {ws : List Codeword} (hws : ∀ k, k < ws.length → cwGet m (a + k) = ws[k]?)
    (hbig : ∃ v ∈ ws, f.size ≤ v.toNat) (k : PolyVal → Except Stop α) :
    (memRead m a ws.length >>= fun ws => elemList f ws >>= k) = .error (.error .range) := by
  rw [(memRead_ok_iff m a ws.length ws).mpr ⟨rfl, hws⟩, bind_okay]
  rcases elemList_cases f ws with ⟨hall, -⟩ | ⟨-, h⟩
  · obtain ⟨v, hv, hge⟩ := hbig
    exact absurd (hall v hv) hge.not_gt
  · rw [h, bind_stop]

theorem toCodeword_of_lt {v : Codeword} (h : v.toNat < 4096) : toCodeword (v.setWidth 12) = v := by
  apply BitVec.eq_of_toNat_eq
  rw [toCodeword_toNat, BitVec.toNat_setWidth]
  exact Nat.mod_eq_of_lt h

/-- A range of codewords below SIZE holds elements. -/
theorem holdsElems_of_codewords (hsize : f.size ≤ 4096) {ws : List Codeword}
    (hws : ∀ k, k < ws.length → cwGet m (a + k) = ws[k]?) (hall : ∀ v ∈ ws, v.toNat < f.size) :
    HoldsElems f m a (ws.map fun v => v.setWidth 12) := by
  intro k hk
  rw [List.length_map] at hk
  have hv := hall _ (List.getElem_mem hk)
  rw [hws k hk, List.getElem?_map, List.getElem?_eq_getElem hk, Option.map_some, Option.getD_some,
    toCodeword_of_lt (hv.trans_le hsize), InField, BitVec.toNat_setWidth]
  exact ⟨rfl, (Nat.mod_le _ _).trans_lt hv⟩

/-- A read that ended well has found elements. -/
theorem holdsElems_of_readElems (hsize : f.size ≤ 4096) {n : Nat} {k : PolyVal → Except Stop α} {b : α}
    (h : (memRead m a n >>= fun ws => elemList f ws >>= k) = .ok b) : ∃ w, w.length = n ∧ HoldsElems f m a w := by
  obtain ⟨ws, hread, h⟩ := bind_eq_ok h
  obtain ⟨w, helems, -⟩ := bind_eq_ok h
  obtain ⟨hlen, hws⟩ := (memRead_ok_iff m a n ws).mp hread
  rcases elemList_cases f ws with ⟨hall, hok⟩ | ⟨-, herr⟩
  · obtain rfl : ws.map (fun v => v.setWidth 12) = w := Except.ok.inj (hok.symm.trans helems)
    exact ⟨_, (List.length_map _).trans hlen, holdsElems_of_codewords hsize (hlen ▸ hws) hall⟩
  · rw [herr] at helems
    exact (nomatch helems)

/-- MemWrite puts element k at entry a + k. -/
theorem cwGet_memWrite_elems (m : Memory) (a : Nat) {w : PolyVal} {k : Nat} (hk : k < w.length) :
    cwGet (memWrite m a (w.map toCodeword)) (a + k) = some (toCodeword (w[k]?.getD 0)) := by
  rw [cwGet_memWrite, if_pos ⟨by omega, by rw [List.length_map]; omega⟩, Nat.add_sub_cancel_left, List.getElem?_map,
    List.getElem?_eq_getElem hk]
  rfl

/-- Elements written after elements continue their list. -/
theorem HoldsElems.append_memWrite {w v : PolyVal} (hw : HoldsElems f m a w) (hv : AllInField f v) :
    HoldsElems f (memWrite m (a + w.length) (v.map toCodeword)) a (w ++ v) := by
  intro k hk
  rw [List.length_append] at hk
  rcases Nat.lt_or_ge k w.length with h | h
  · rw [cwGet_memWrite_before _ _ (by omega), List.getElem?_append_left h]
    exact hw k h
  · obtain ⟨j, rfl⟩ := Nat.exists_eq_add_of_le h
    have hj : j < v.length := by omega
    rw [← Nat.add_assoc, cwGet_memWrite_elems _ _ hj, List.getElem?_append_right h, Nat.add_sub_cancel_left]
    refine ⟨rfl, ?_⟩
    rw [List.getElem?_eq_getElem hj]
    exact hv _ (List.getElem_mem hj)

end

/-- MemWrite leaves every byte outside a range it fills. -/
theorem memWrite_elems_sameOutside (m : Memory) {r : Range} {w : PolyVal} (hlen : w.length = r.count) :
    SameOutside r m (memWrite m r.start (w.map toCodeword)) := by
  have hout := memWrite_sameOutside m r.start (w.map toCodeword)
  rwa [List.length_map, hlen] at hout

end Sys2Proof.Machine

/-! ## The RS commands past their operand checks (R173, R175) -/

namespace Sys2Proof.Machine

/-- The state RS_ENCODE leaves, before it completes, for a block with these data words (R173). -/
def State.encoded (s : State) (data : PolyVal) : State :=
  (s.setCache (cacheFor s.field s.cache s.operands.arg2.toNat)).setCw (memWrite s.cw (encodeRange s).start
    ((ecWords s.field data (buildGenerator s.field s.cache s.operands.arg2.toNat) s.operands.arg2.toNat).map toCodeword))

/-- The state RS_SYND leaves, before it completes, for this received word (R175). -/
def State.withSyndromes (s : State) (w : PolyVal) : State :=
  (s.setCw (memWrite s.cw (syndromeRange s).start ((syndromes s.field w s.operands.arg2.toNat).map toCodeword))).setResult
    (if (syndromes s.field w s.operands.arg2.toNat).any (fun x => x != 0) then 1 else 0)

theorem arg_toNat_ne_zero {v : Word} (h : v ≠ 0) : v.toNat ≠ 0 := fun h0 => h (BitVec.eq_of_toNat_eq h0)

section
variable {s : State} (hfield : s.fieldValid = true)
include hfield

theorem exec_rs_zeroEc (h : s.operands.arg2 = 0) {i : Instr} (hi : i ∈ [Instr.rsEncode, .rsSynd]) :
    exec i s = .next (s.fail .zeroEc) := by
  have hec : s.operands.arg2.toNat = 0 := by rw [h]; rfl
  rcases List.mem_pair.mp hi with rfl | rfl <;>
    simp only [exec, execRsEncode, execRsSynd, requireField_valid hfield, raiseIf_pos hec, bind_okay, bind_stop, finish_error]

section
variable (hec : s.operands.arg2.toNat ≠ 0)
include hec

theorem exec_rsEncode_insufficientData (hle : s.operands.arg1.toNat ≤ s.operands.arg2.toNat) :
    exec .rsEncode s = .next (s.fail .insufficientData) := by
  simp only [exec, execRsEncode, requireField_valid hfield, raiseIf_neg hec, raiseIf_pos hle, bind_okay, bind_stop,
    finish_error]

theorem exec_rsEncode_capacity (hlt : s.operands.arg2.toNat < s.operands.arg1.toNat)
    (hbig : Config.nmax < s.operands.arg0.toNat + s.operands.arg1.toNat) :
    exec .rsEncode s = .next (s.fail .capacity) := by
  simp only [exec, execRsEncode, requireField_valid hfield, raiseIf_neg hec, raiseIf_neg hlt.not_ge,
    requireRange_exceeds hbig, bind_okay, bind_stop, finish_error]

/-- With its operands checked, RS_ENCODE reads the data words and encodes them. -/
theorem exec_rsEncode_checked (hlt : s.operands.arg2.toNat < s.operands.arg1.toNat)
    (hfit : s.operands.arg0.toNat + s.operands.arg1.toNat ≤ Config.nmax) : exec .rsEncode s = finish s
      (memRead s.cw s.operands.arg0.toNat (s.operands.arg1.toNat - s.operands.arg2.toNat) >>= fun ws =>
        elemList s.field ws >>= fun data => .ok (s.encoded data)) := by
  simp only [exec, execRsEncode, requireField_valid hfield, raiseIf_neg hec, raiseIf_neg hlt.not_ge,
    requireRange_fits hfit, bind_okay]
  rfl

theorem exec_rsSynd_empty (h : s.operands.arg1.toNat = 0) : exec .rsSynd s = .next (s.fail .empty) := by
  simp only [exec, execRsSynd, requireField_valid hfield, raiseIf_neg hec, raiseIf_pos h, bind_okay, bind_stop, finish_error]

/-- The range of the received word is checked before that of the syndromes; either fails with E_CAPACITY. -/
theorem exec_rsSynd_capacity (hne : s.operands.arg1.toNat ≠ 0)
    (hbig : Config.nmax < s.operands.arg0.toNat + s.operands.arg1.toNat ∨
      Config.nmax < s.operands.arg3.toNat + s.operands.arg2.toNat) : exec .rsSynd s = .next (s.fail .capacity) := by
  rcases requireRange_cases s.operands.arg0.toNat s.operands.arg1.toNat with ⟨hfit, hreq⟩ | ⟨-, hreq⟩
  · simp only [exec, execRsSynd, syndromeRange, requireField_valid hfield, raiseIf_neg hec, raiseIf_neg hne, hreq,
      requireRange_exceeds (hbig.resolve_left hfit.not_gt), bind_okay, bind_stop, finish_error]
  · simp only [exec, execRsSynd, requireField_valid hfield, raiseIf_neg hec, raiseIf_neg hne, hreq, bind_okay, bind_stop,
      finish_error]

/-- With its operands checked, RS_SYND reads the received word and evaluates it. -/
theorem exec_rsSynd_checked (hne : s.operands.arg1.toNat ≠ 0)
    (hfit : s.operands.arg0.toNat + s.operands.arg1.toNat ≤ Config.nmax)
    (hdst : s.operands.arg3.toNat + s.operands.arg2.toNat ≤ Config.nmax) : exec .rsSynd s = finish s
      (memRead s.cw s.operands.arg0.toNat s.operands.arg1.toNat >>= fun ws =>
        elemList s.field ws >>= fun w => .ok (s.withSyndromes w)) := by
  simp only [exec, execRsSynd, syndromeRange, requireField_valid hfield, raiseIf_neg hec, raiseIf_neg hne,
    requireRange_fits hfit, requireRange_fits hdst, bind_okay]
  rfl

end

end

/-- Settles O56: each error's check is reached, since the checks before it pass. -/
theorem rsOperandErrors : Obligations.RsOperandErrors := by
  intro s hfield
  refine ⟨fun h i hi => exec_rs_zeroEc hfield h hi,
    fun hec => exec_rsEncode_insufficientData hfield (arg_toNat_ne_zero hec),
    fun hec => exec_rsEncode_capacity hfield (arg_toNat_ne_zero hec), fun hec h => ?_,
    fun hec hne => exec_rsSynd_capacity hfield (arg_toNat_ne_zero hec) (arg_toNat_ne_zero hne),
    fun ws hec hne hfit hws hbig => ⟨fun hlen => ?_, fun hlen hdst => ?_⟩⟩
  · exact exec_rsSynd_empty hfield (arg_toNat_ne_zero hec) (by rw [h]; rfl)
  · have hpos := List.length_pos_iff.mpr hne
    rw [exec_rsEncode_checked hfield (arg_toNat_ne_zero hec) (by omega) hfit, hlen, Nat.add_sub_cancel,
      readElems_range hws hbig, finish_error]
  · have hpos := List.length_pos_iff.mpr hne
    rw [exec_rsSynd_checked hfield (arg_toNat_ne_zero hec) (by omega) hfit hdst, hlen, readElems_range hws hbig, finish_error]

end Sys2Proof.Machine

/-! ## Syndromes (R174, R175) -/

namespace Sys2Proof.Machine

/-- R174: the syndromes are the power sums of the received word at the powers of alpha from BASE on. -/
theorem ActiveField.Valid.syndromes_eq {f : ActiveField} (hf : f.Valid) {w : PolyVal} (hw : AllInField f w) (ns : Nat) :
    syndromes f w ns = (List.range ns).map fun j => evalSum f w (alphaPow f.am f.apoly (j + f.abase.toNat)) := by
  refine List.map_congr_left fun j _ => ?_
  rw [hf.polyEval_eq_evalSum hw (hf.gfExp_inField _), hf.gfExp_eq_alphaPow]

/-- RESULT of RS_SYND is the test of the syndromes against 0 (R175). -/
theorem ActiveField.Valid.any_syndromes_iff {f : ActiveField} (hf : f.Valid) {w : PolyVal} (hw : AllInField f w) (ns : Nat) :
    (syndromes f w ns).any (fun x => x != 0) = true ↔
      ∃ j, j < ns ∧ evalSum f w (alphaPow f.am f.apoly (j + f.abase.toNat)) ≠ 0 := by
  simp only [hf.syndromes_eq hw, List.any_map, List.any_eq_true, List.mem_range, Function.comp_apply, bne_iff_ne, ne_eq]

theorem exec_rsSynd_completes {s : State} (hfield : s.fieldValid = true) {w : PolyVal} (hec : 1 ≤ s.operands.arg2.toNat)
    (hne : w ≠ []) (hlen : s.operands.arg1.toNat = w.length) (hfit : s.operands.arg0.toNat + w.length ≤ Config.nmax)
    (hdst : s.operands.arg3.toNat + s.operands.arg2.toNat ≤ Config.nmax)
    (hw : HoldsElems s.field s.cw s.operands.arg0.toNat w) : exec .rsSynd s = .next (s.withSyndromes w).complete := by
  have hpos := List.length_pos_iff.mpr hne
  rw [exec_rsSynd_checked hfield (by omega) (by omega) (hlen ▸ hfit) hdst, hlen, readElems_holds hw, finish_ok]

/-- Settles O54: the word is read before the one MemWrite, and RESULT is the test of the syndromes written. -/
theorem rsSyndWritesEvaluations : Obligations.RsSyndWritesEvaluations := by
  intro s w hfield hf hec hne hlen hfit hdst hw
  have hsynd := hf.syndromes_eq (holdsElems_inField hw) s.operands.arg2.toNat
  have hout : SameOutside (syndromeRange s) s.cw (s.withSyndromes w).cw :=
    memWrite_elems_sameOutside s.cw (syndromes_length s.field w _)
  refine ⟨_, exec_rsSynd_completes hfield hec hne hlen hfit hdst hw, rfl, fun j hj => ?_, ?_, hout, rfl⟩
  · refine (cwGet_memWrite_elems _ _ (by rwa [syndromes_length])).trans ?_
    rw [hsynd, List.getElem?_map, List.getElem?_range hj]
    rfl
  · have hany := hf.any_syndromes_iff (holdsElems_inField hw) s.operands.arg2.toNat
    by_cases hex : ∃ j, j < s.operands.arg2.toNat ∧
        evalSum s.field w (alphaPow s.field.am s.field.apoly (j + s.field.abase.toNat)) ≠ 0
    · exact .inr ⟨if_pos (hany.mpr hex), hex⟩
    · exact .inl ⟨if_neg (hany.not.mpr hex), by simpa using hex⟩

end Sys2Proof.Machine

/-! ## Encoding (R173, R176) -/

namespace Sys2Proof.Machine

theorem coef_append (p q : PolyVal) (d : Nat) :
    coef (p ++ q) d = if d < q.length then coef q d else coef p ((d - q.length : Nat) : Int) := by
  rw [coef_eq_getElem?, List.reverse_append, coef_eq_getElem?, coef_eq_getElem?]
  split
  · next h => rw [List.getElem?_append_left (by rwa [List.length_reverse])]
  · next h => rw [List.getElem?_append_right (by rw [List.length_reverse]; omega), List.length_reverse]

/-- What is added twice cancels. -/
theorem Normalized.polyAdd_polyAdd_cancel {p : PolyVal} (hp : Normalized p) (r : PolyVal) : polyAdd (polyAdd p r) r = p :=
  (polyAdd_normalized (polyAdd_normalized hp.1).1).ext hp fun d => by
    rw [coef_polyAdd, coef_polyAdd, BitVec.xor_assoc, Elem.xor_self, Elem.xor_zero]

theorem polyMulmono_ne_nil (f : ActiveField) {p : PolyVal} (hp : p ≠ []) (d : Nat) (c : Elem) :
    polyMulmono f p d c ≠ [] := by
  rw [polyMulmono]
  split
  · simp
  · exact normalizePoly_ne_nil (by simp [hp])

section
variable {f : ActiveField} (hf : f.Valid)
include hf

/-- The data moved up by the number of EC words, plus a remainder, is the block with the remainder in its EC words (R173). -/
theorem ActiveField.Valid.normalizePoly_block {data r : PolyVal} (hdata : AllInField f data) (hne : data ≠ []) {ec : Nat}
    (hr : r.length ≤ ec) :
    normalizePoly (data ++ (zeros (ec - r.length) ++ r)) = polyAdd (polyMulmono f (normalizePoly data) ec 1) r := by
  have hshift : polyMulmono f (normalizePoly data) ec 1 ≠ [] := polyMulmono_ne_nil f (normalizePoly_ne_nil hne) ec 1
  refine (normalizePoly_normalized (by simp [hne])).ext (polyAdd_normalized hshift) fun d => ?_
  have hlen : (zeros (ec - r.length) ++ r).length = ec := by
    rw [List.length_append, zeros_length]
    omega
  rw [coef_normalizePoly, coef_append, hlen, coef_zeros_append, coef_polyAdd, coef_polyMulmono, coef_normalizePoly]
  split
  · exact (Elem.zero_xor _).symm
  · next h => rw [hf.gfMul_one (coef_inField hdata _), coef_of_length_le (p := r) (by omega), Elem.xor_zero]

/-- R173: the EC words make the block a multiple of the generator. -/
theorem ActiveField.Valid.ecWords_spec {data : PolyVal} (hdata : AllInField f data) (hne : data ≠ []) {ec : Nat}
    (hec : 1 ≤ ec) (hfit : data.length + ec ≤ Config.nmax) :
    AllInField f (ecWords f data (generator f ec) ec) ∧ ∃ q, PolyOk f q ∧
      normalizePoly (data ++ ecWords f data (generator f ec) ec) = polyMul f q (generator f ec) := by
  have hlen := hf.ecWords_length hec hne hfit
  have hnorm := normalizePoly_length_le data
  have hpos := List.length_pos_iff.mpr hne
  have hsh : PolyOk f (polyMulmono f (normalizePoly data) ec 1) :=
    hf.polyMulmono_ok (normalizePoly_ne_nil hne) ec 1 fun ⟨_, _, h⟩ => by omega
  have hg : PolyOk f (generator f ec) := hf.generator_ok (by omega)
  obtain ⟨hq, hr⟩ := hf.polyDivmod_ok hsh hg.1.1
  have hspec := hf.polyDivmod_spec hsh hg.2.2 hg.1.1
  rw [ecWords, List.length_append, zeros_length] at hlen
  refine ⟨(AllInField.zeros f _).append hr.2.2, _, hq, ?_⟩
  rw [ecWords, hf.normalizePoly_block hdata hne (by omega)]
  have hcancel := (polyMul_normalized f hq.1.1 hg.1.1).polyAdd_polyAdd_cancel
    (polyDivmod f (polyMulmono f (normalizePoly data) ec 1) (generator f ec)).2
  rwa [← hspec] at hcancel

/-- A block that is a multiple of the generator is zero at the generator's roots (R176). -/
theorem ActiveField.Valid.polyEval_multiple {c q : PolyVal} (hq : AllInField f q) {d j : Nat} (hj : j < d)
    (hc : normalizePoly c = polyMul f q (generator f d)) : polyEval f c (gfExp f (j + f.abase.toNat)) = 0 := by
  obtain ⟨p, hp, -⟩ := hf.generator_monic d
  rw [← polyEval_normalizePoly, hc, hf.polyEval_polyMul (hf.gfExp_inField _) hq (hf.generator_allInField d) (by simp [hp]),
    hf.polyEval_generator hj, gfMul_zero_right]

end

theorem exec_rsEncode_completes {s : State} (hfield : s.fieldValid = true) {data : PolyVal} (hec : 1 ≤ s.operands.arg2.toNat)
    (hne : data ≠ []) (hlen : s.operands.arg1.toNat = data.length + s.operands.arg2.toNat)
    (hfit : s.operands.arg0.toNat + s.operands.arg1.toNat ≤ Config.nmax)
    (hdata : HoldsElems s.field s.cw s.operands.arg0.toNat data) : exec .rsEncode s = .next (s.encoded data).complete := by
  have hpos := List.length_pos_iff.mpr hne
  rw [exec_rsEncode_checked hfield (by omega) (by omega) hfit, hlen, Nat.add_sub_cancel, readElems_holds hdata, finish_ok]

/-- The EC words stand after the data words (R173). -/
theorem encodeRange_eq {s : State} {n : Nat} (h : s.operands.arg1.toNat = n + s.operands.arg2.toNat) :
    encodeRange s = { start := s.operands.arg0.toNat + n, count := s.operands.arg2.toNat } := by
  simp only [encodeRange, h, Range.mk.injEq]
  omega

theorem State.Inv.encoded_cw {s : State} (hinv : s.Inv) (hfield : s.fieldValid = true) {data : PolyVal}
    (hlen : s.operands.arg1.toNat = data.length + s.operands.arg2.toNat) :
    (s.encoded data).cw = memWrite s.cw (s.operands.arg0.toNat + data.length)
      ((ecWords s.field data (generator s.field s.operands.arg2.toNat) s.operands.arg2.toNat).map toCodeword) := by
  rw [← hinv.buildGenerator_eq hfield, State.encoded, encodeRange_eq hlen, State.setCw_cw]

/-- Settles O53: the data plus its remainder by g_ec is a multiple of g_ec, and the one MemWrite puts the remainder after the
data. -/
theorem rsEncodeMakesCodeword : Obligations.RsEncodeMakesCodeword := by
  intro s data hinv hfield hec hne hlen hfit hdata
  have hf := hinv.fieldBuilt hfield
  have hin := holdsElems_inField hdata
  have hpos := List.length_pos_iff.mpr hne
  have hfit' : data.length + s.operands.arg2.toNat ≤ Config.nmax := by omega
  obtain ⟨hecw, q, hq, hmult⟩ := hf.ecWords_spec hin hne hec hfit'
  have hecwlen := hf.ecWords_length hec hne hfit'
  have hrange := encodeRange_eq hlen
  have hcw := hinv.encoded_cw hfield hlen
  obtain ⟨hkeeps, hdeg, hcached, hgen⟩ := hinv.cacheFor_spec hfield (d := s.operands.arg2.toNat) (by omega)
    (t := (s.encoded data).complete) rfl
  refine ⟨_, _, q, exec_rsEncode_completes hfield hec hne hlen hfit hdata, rfl, hecwlen, ?_, hq, hmult,
    fun j hj => hf.polyEval_multiple hq.2.2 hj hmult, ?_, hkeeps, hdeg, hgen _ hcached, hgen, rfl⟩
  · rw [State.complete_cw, hcw]
    exact hdata.append_memWrite hecw
  · rw [State.complete_cw, hcw, hrange]
    exact memWrite_elems_sameOutside s.cw hecwlen

/-- An RS_ENCODE that completed well had a block of the buffer whose data words are elements (R173). -/
theorem exec_rsEncode_reads {s t : State} (hinv : s.Inv) (hexec : exec .rsEncode s = .next t) (herr : t.err = false) :
    1 ≤ s.operands.arg2.toNat ∧ s.operands.arg0.toNat + s.operands.arg1.toNat ≤ Config.nmax ∧
      ∃ data, data ≠ [] ∧ s.operands.arg1.toNat = data.length + s.operands.arg2.toNat ∧
        HoldsElems s.field s.cw s.operands.arg0.toNat data := by
  rcases exec_next (i := .rsEncode) rfl Instr.noConfusion hexec with ⟨e, -, rfl⟩ | ⟨u, hfield, heff, -⟩
  · exact (nomatch herr)
  · obtain ⟨_, _, rfl, hec, hlt, hfit, -⟩ := heff
    rw [exec_rsEncode_checked hfield (by omega) hlt hfit] at hexec
    rcases finish_next hexec with ⟨_, hread, -⟩ | ⟨e, -, rfl⟩
    · obtain ⟨data, hlen, hdata⟩ := holdsElems_of_readElems (hinv.fieldBuilt hfield).size_le hread
      exact ⟨hec, hfit, data, List.ne_nil_of_length_pos (by omega), by omega, hdata⟩
    · exact (nomatch herr)

/-- Settles O55: the encoded block is zero at the generator's roots, and its syndromes are its values there. -/
theorem encodedBlockHasZeroSyndromes : Obligations.EncodedBlockHasZeroSyndromes := by
  intro s t u hinv hfield hexec herr hfieldU hsame hcw harg0 harg1 hns hle hdst
  have hf := hinv.fieldBuilt hfield
  obtain ⟨hec, hfit, data, hne, hlen, hdata⟩ := exec_rsEncode_reads hinv hexec herr
  obtain ⟨t', ecw, q, hexec', -, hecwlen, hblock, -, -, hzero, -⟩ :=
    rsEncodeMakesCodeword s data hinv hfield hec hne hlen hfit hdata
  obtain rfl : t = t' := Host.Outcome.next.inj (hexec.symm.trans hexec')
  have hblocklen : s.operands.arg1.toNat = (data ++ ecw).length := by rw [List.length_append, hecwlen, hlen]
  have hsynd : ∀ j, j < u.operands.arg2.toNat →
      evalSum s.field (data ++ ecw) (alphaPow s.field.am s.field.apoly (j + s.field.abase.toNat)) = 0 := fun j hj => by
    rw [← hf.gfExp_eq_alphaPow, ← hf.polyEval_eq_evalSum (holdsElems_inField hblock) (hf.gfExp_inField _),
      hzero j (by omega)]
  obtain ⟨v, hv, hverr, hwords, hresult, -, -⟩ := rsSyndWritesEvaluations u (data ++ ecw) hfieldU (hsame ▸ hf) hns
    (by simp [hne]) (by rw [harg1, hblocklen]) (by rw [harg0, ← hblocklen]; exact hfit) hdst
    (by rw [hsame, hcw, harg0]; exact hblock)
  rw [hsame] at hwords hresult
  refine ⟨v, hv, hverr, ?_, fun j hj => ?_⟩
  · rcases hresult with ⟨hres, -⟩ | ⟨-, j, hj, hnz⟩
    · exact hres
    · exact absurd (hsynd j hj) hnz
  · rw [hwords j hj, hsynd j hj]
    rfl

end Sys2Proof.Machine

/-! ## Completion and errors (R200 to R203) -/

namespace Sys2Proof.Machine

/-- What any command can do: GF_CFG, by its own two outcomes; of the others, a failure that changes the status bits alone, with a
code of the table if the command is legal, or a good completion. -/
theorem exec_outcomes {i : Instr} {s t : State} (h : exec i s = .next t) :
    (i = .gfCfg ∧ execGfCfg s = .next t) ∨
    (i ≠ .gfCfg ∧ ((∃ e, e ≠ .noError ∧ (i.wellFormed = true → e ∈ i.mayRaise) ∧ t = s.fail e) ∨
      ∃ u, Effect i s u ∧ t = u.complete)) := by
  by_cases hi : i = .gfCfg
  · subst hi
    exact .inl ⟨rfl, h⟩
  refine .inr ⟨hi, ?_⟩
  cases hw : i.wellFormed with
  | false =>
    obtain rfl := Host.Outcome.next.inj ((exec_illFormed hw).symm.trans h)
    exact .inl ⟨.illegal, by decide, fun hlegal => (nomatch hlegal), rfl⟩
  | true =>
    rcases exec_next hw hi h with ⟨e, he, rfl⟩ | ⟨u, -, hu, rfl⟩
    · exact .inl ⟨e, fun hno => noError_not_mem_mayRaise i (hno ▸ he), fun _ => he, rfl⟩
    · exact .inr ⟨u, hu, rfl⟩

/-- Settles O26: a failure starts from the state the command found, but for GF_CFG's, which starts from a discarded field. -/
theorem errorsArePrecise : Obligations.ErrorsArePrecise := by
  intro s t i h herr
  rcases exec_outcomes h with ⟨rfl, hcfg⟩ | ⟨hi, ⟨e, -, -, rfl⟩ | ⟨u, -, rfl⟩⟩
  · rcases execGfCfg_next hcfg with ⟨-, rfl⟩ | ⟨-, rfl⟩
    · exact (nomatch herr)
    · exact ⟨fun hne => absurd rfl hne, fun _ =>
        ⟨rfl, rfl, s.clearPolys_get, rfl, rfl, rfl, rfl, rfl, rfl, ⟨rfl, rfl, rfl, rfl, rfl⟩⟩⟩
  · exact ⟨fun _ => rfl, fun hcfg => absurd hcfg hi⟩
  · exact (nomatch herr)

/-- Settles O27: GF_CFG fails with E_FIELD_INVALID alone, the other commands as their checks say. -/
theorem errorCodesAreThoseOfTheTable : Obligations.ErrorCodesAreThoseOfTheTable := by
  intro s t i hw h herr
  rcases exec_outcomes h with ⟨rfl, hcfg⟩ | ⟨-, ⟨e, -, he, rfl⟩ | ⟨u, -, rfl⟩⟩
  · rcases execGfCfg_next hcfg with ⟨-, rfl⟩ | ⟨-, rfl⟩
    · exact (nomatch herr)
    · exact List.mem_singleton.mpr rfl
  · exact he hw
  · exact (nomatch herr)

/-- No command writes the host's side (R25, R42): it writes RESULT, the registers, the cache and the buffer at most. -/
theorem effect_keepsHostSide {i : Instr} {s u : State} (hu : Effect i s u) : KeepsHostSide s u := by
  cases i with
  | gfCfg => exact hu.elim
  | gfAdd | gfMul | gfDiv | gfInv | gfExp | gfLog | polyCoef _ | polyDeg _ | polyIszero _ | polyEval _ =>
    obtain ⟨_, rfl⟩ := hu
    exact ⟨rfl, rfl, rfl, rfl, rfl⟩
  | rsGen _ =>
    obtain ⟨_, _, rfl⟩ := hu
    exact ⟨rfl, rfl, rfl, rfl, rfl⟩
  | rsSynd =>
    obtain ⟨_, _, _, rfl⟩ := hu
    exact ⟨rfl, rfl, rfl, rfl, rfl⟩
  | polyLoad _ | polyStore _ | polyAdd _ _ _ | polyDiv _ _ _ _ =>
    obtain ⟨_, _, _, _, rfl⟩ := hu
    exact ⟨rfl, rfl, rfl, rfl, rfl⟩
  | polyMul _ _ _ | polyMulmono _ _ =>
    obtain ⟨_, _, _, _, _, rfl⟩ := hu
    exact ⟨rfl, rfl, rfl, rfl, rfl⟩
  | rsEncode =>
    obtain ⟨_, _, _, _, _, _, _, rfl⟩ := hu
    exact ⟨rfl, rfl, rfl, rfl, rfl⟩

/-- Settles O28: `complete` and `fail` empty the latch and set the status bits, over a state whose host side is the old one. -/
theorem completionReportsInStatus : Obligations.CompletionReportsInStatus := by
  intro s t i h
  rcases exec_outcomes h with ⟨rfl, hcfg⟩ | ⟨-, ⟨e, hne, -, rfl⟩ | ⟨u, hu, rfl⟩⟩
  · rcases execGfCfg_next hcfg with ⟨-, rfl⟩ | ⟨-, rfl⟩
    · exact ⟨rfl, .inl ⟨rfl, rfl⟩, ⟨rfl, rfl, rfl, rfl, rfl⟩⟩
    · exact ⟨rfl, .inr ⟨rfl, ErrCode.noConfusion⟩, ⟨rfl, rfl, rfl, rfl, rfl⟩⟩
  · exact ⟨rfl, .inr ⟨rfl, hne⟩, KeepsHostSide.fail s e⟩
  · exact ⟨rfl, .inl ⟨rfl, rfl⟩, { effect_keepsHostSide hu with }⟩

end Sys2Proof.Machine

/-! ## The lifecycle of a command (R207, R208, R216) -/

namespace Sys2Proof.Machine

/-! ### The sequencer's turn -/

/-- The table's numbering of a 32-bit word is the decoder's. -/
theorem decode_of_decodeTableWord {w : Nat} {i : Instr} (h : decodeTableWord 32 w = some i) :
    decode (BitVec.ofNat 32 (w % 2 ^ 32)) = .ok i := by
  rw [decodeTableWord, if_pos le_rfl] at h
  cases hd : decode (BitVec.ofNat 32 (w % 2 ^ 32)) with
  | error e => rw [hd] at h; cases h
  | ok j => rw [hd] at h; cases h; rfl

/-- Settles O5: the turns of a running command, with the sequencer's step that of the decoded word. -/
theorem stepRunsLatchedCommand : Obligations.StepRunsLatchedCommand := by
  refine ⟨fun s l i hl hd => ⟨fun hp => ?_, fun es hp => ?_, fun e es hp he => ?_⟩, fun s w i _ hi => ?_⟩
  · rw [step_sequencer hl (.inl hp), sequencerStep_legal hl hd]
  · rw [step_sequencer hl (.inr ⟨es, hp⟩), sequencerStep_legal hl hd]
  · have hadv : (s.advance 1).latch = some l := hl
    rw [step_contended hl hp he, sequencerStep_legal hadv hd]
  · have hl : (s.withFetchWord 32 w).latch = some { word := BitVec.ofNat 32 (w % 2 ^ 32), args := s.regs } := rfl
    rw [step_sequencer hl (.inl rfl), sequencerStep_legal hl (decode_of_decodeTableWord hi)]

/-- The sequencer's step ends the command, legal or not (R87, R203). -/
theorem sequencerStep_latch {s t : State} {l : Latch} (hl : s.latch = some l) (h : sequencerStep s = .next t) :
    t.latch = none := by
  cases hd : decode l.word with
  | ok i =>
    rw [sequencerStep_legal hl hd] at h
    exact (completionReportsInStatus s t i h).1
  | error e =>
    obtain rfl := Host.Outcome.next.inj ((sequencerStep_illegal hl hd).symm.trans h)
    rfl

/-! ### The host's turn -/

/-- Settles O8: without a command in the latch only the host can move. -/
theorem idleBlockWaitsForHost : Obligations.IdleBlockWaitsForHost := by
  intro s hb
  have hl : s.latch = none := by simpa [State.busy] using hb
  refine ⟨fun hp => ?_, fun e es hp => ?_⟩
  · have hturn : s.turn = .idle := by rw [State.turn, hl, hp]
    rw [step, agentStep, hturn]
  · have hturn : s.turn = .host := by rw [State.turn, hl, hp]
    have hhost : hostStep s = performEvent (s.setPending es) e := by rw [hostStep, hp]
    rw [step, agentStep, hturn, ← hhost]

/-- Settles O7: a CMD write of an idle block is `accept`, and the bus answers. -/
theorem cmdWriteIsAccepted : Obligations.CmdWriteIsAccepted := by
  intro s v hb
  have haccept : busAccess s (.write .word 0x010 v) = .next ((s.accept v).respond .done) := by
    rw [busAccess_write_aligned (by decide) rfl, busWrite_idle hb]
    rfl
  exact ⟨_, haccept, rfl, rfl, rfl, rfl, rfl, rfl, rfl, rfl, rfl, rfl, rfl, rfl, rfl, rfl, rfl, rfl⟩

/-- What the two action bits of CTRL can do (R33). -/
theorem ctrlWrite_cases (s : State) (v : Word) :
    ctrlWrite s v = s.softReset ∨ ctrlWrite s v = s.clearOverrun ∨ ctrlWrite s v = s := by
  unfold ctrlWrite
  split
  · exact .inl rfl
  · split
    · exact .inr (.inl rfl)
    · exact .inr (.inr rfl)

/-- A write to a busy block aborts the running command, or leaves it and the events to come (R33, R42). -/
theorem busWrite_running {s : State} (hb : s.busy = true) (loc : Location) (v : Word) :
    (busWrite s loc v).busy = false ∨
      ((busWrite s loc v).latch = s.latch ∧ (busWrite s loc v).pending = s.pending) := by
  rw [busWrite_busy hb]
  by_cases hc : loc = .ctrl
  · subst hc
    rcases ctrlWrite_cases s v with h | h | h <;> rw [busyWrite, h]
    · exact .inl rfl
    · exact .inr ⟨rfl, rfl⟩
    · exact .inr ⟨rfl, rfl⟩
  · rw [busyWrite_other s hc]
    exact .inr ⟨rfl, rfl⟩

/-- An event that meets a running command resets the block, or leaves the command and the other events. -/
theorem performEvent_running {s t : State} {e : Event} (hb : s.busy = true) (h : performEvent s e = .next t) :
    t.busy = false ∨ (t.latch = s.latch ∧ t.pending = s.pending) := by
  cases e with
  | access a =>
    rcases busAccess_next h with ⟨r, n, rfl⟩ | ⟨offset, v, -, -, -, rfl⟩
    · exact .inr ⟨rfl, rfl⟩
    · exact busWrite_running hb _ v
  | wait =>
    obtain rfl := Host.Outcome.next.inj h
    exact .inr ⟨rfl, rfl⟩
  | powerOnReset =>
    obtain rfl := Host.Outcome.next.inj h
    exact .inl rfl

/-- Settles O9: a step of the sequencer ends the command, and one of the host takes its event off the list. -/
theorem busyBlockCompletes : Obligations.BusyBlockCompletes := by
  intro s t hb h
  rcases step_next h with ⟨hl, -, -⟩ | ⟨l, n, hl, hs⟩ | ⟨e, es, n, hp, he⟩
  · simp [State.busy, hl] at hb
  · have hadv : (s.advance n).latch = some l := hl
    left
    rw [State.busy, sequencerStep_latch hadv hs]
    rfl
  · have hadv : ((s.advance n).setPending es).busy = true := hb
    refine (performEvent_running hadv he).imp_right fun ⟨hlatch, hpend⟩ => ⟨hlatch, ?_⟩
    rw [hpend, hp]
    exact Nat.lt_succ_self es.length

end Sys2Proof.Machine

/-! ## Reset and aborts (R230 to R232) -/

namespace Sys2Proof.Machine

/-- After a reset no polynomial register is valid (R23, R231). -/
@[simp] theorem reset_polys (i : PReg) : State.reset.polys[i] = none := by
  simp [State.reset]

/-- Settles O10: each value is the one `State.reset` writes, and an empty buffer has no codeword. -/
theorem resetLeavesStatedValues : Obligations.ResetLeavesStatedValues :=
  ⟨statusWord_reset, rfl, rfl, rfl, rfl, rfl, rfl, rfl, rfl, rfl, rfl, rfl, rfl, rfl, rfl, rfl, reset_polys, rfl, fun _ => rfl⟩

/-- Settles O60: the event leaves the reset state, but for the model's own fields. -/
theorem powerOnResetActs : Obligations.PowerOnResetActs := fun s =>
  ⟨s.powerOn, rfl, statusWord_reset, rfl, rfl, rfl, rfl, rfl, rfl, rfl, rfl, rfl, rfl, rfl, rfl, rfl, rfl, rfl, reset_polys, rfl,
    fun _ => rfl, rfl, rfl, rfl⟩

/-- Settles O11: the reset state is what a reset leaves over the empty buffer. -/
theorem resetMeetsInvariant : Obligations.ResetMeetsInvariant :=
  resetWith_inv State.reset (m := []) rfl fun _ hc => absurd hc List.not_mem_nil

/-- Only three commands write codewords (R40, R232). -/
theorem writeRange_count_eq_zero (s : State) {i : Instr} (hstore : ∀ rs1, i ≠ .polyStore rs1) (henc : i ≠ .rsEncode)
    (hsynd : i ≠ .rsSynd) : (writeRange i s).count = 0 := by
  cases i with
  | polyStore rs1 => exact absurd rfl (hstore rs1)
  | rsEncode => exact absurd rfl henc
  | rsSynd => exact absurd rfl hsynd
  | gfCfg | gfAdd | gfMul | gfDiv | gfInv | gfExp | gfLog => rfl
  | polyLoad | polyAdd | polyMul | polyMulmono | polyDiv | polyCoef | polyDeg | polyIszero | polyEval | rsGen => rfl

section
variable {s : State} {l : Latch} {i : Instr} (hl : s.latch = some l) (hd : decode l.word = .ok i)
include hl hd

/-- An abort changes no codeword outside the write range of the command in the latch (R232). -/
theorem softReset_cw_outside_writeRange {a : Nat}
    (h : a < (writeRange i s).start ∨ (writeRange i s).start + (writeRange i s).count ≤ a) :
    cwGet s.softReset.cw a = cwGet s.cw a := by
  obtain ⟨-, hstart, hcount⟩ := Range.inBuffer_bounds (writeRange i s)
  apply softReset_cw_outside
  rw [abortRange_legal hl hd, hstart]
  omega

theorem softReset_cw_of_writeRange_empty (h : (writeRange i s).count = 0) : s.softReset.cw = s.cw := by
  obtain ⟨-, -, hcount⟩ := Range.inBuffer_bounds (writeRange i s)
  exact softReset_cw_empty (by rw [abortRange_legal hl hd]; omega)

end

/-- Settles O15: the entries an abort scribbles are those of the write range; all else is the reset state's. -/
theorem abortTouchesOnlyWriteRange : Obligations.AbortTouchesOnlyWriteRange := by
  intro s l hl
  refine ⟨fun i hd => ⟨fun a ha => softReset_cw_outside_writeRange hl hd ha, softReset_cw_of_writeRange_empty hl hd,
    fun hstore henc hsynd => softReset_cw_of_writeRange_empty hl hd (writeRange_count_eq_zero s hstore henc hsynd)⟩,
    fun e hd => softReset_cw_empty (by rw [abortRange_illegal hl hd]), ?_⟩
  exact ⟨statusWord_reset, rfl, rfl, rfl, rfl, rfl, rfl, rfl, rfl, rfl, reset_polys, rfl, rfl, rfl⟩

end Sys2Proof.Machine

/-! ## What stops the machine (R67, R233) -/

namespace Sys2Proof.Machine

/-! ### The faults of a command -/

/-- A piece of pseudocode that stops with a fault stops with one of these. -/
def FaultsOnly {α : Type} (P : Fault → Prop) (x : Except Stop α) : Prop := ∀ f, x = .error (.fault f) → P f

section
variable {α β : Type} {P : Fault → Prop}

theorem FaultsOnly.ok (a : α) : FaultsOnly P (.ok a) := fun _ h => (nomatch h)

theorem FaultsOnly.error (e : ErrCode) : FaultsOnly P (.error (.error e) : Except Stop α) := fun _ h => (nomatch h)

/-- A check does not fault, that of the field among them (R89). -/
theorem FaultsOnly.check {c : Prop} [Decidable c] {e : ErrCode} {k : Unit → Except Stop β} (hk : FaultsOnly P (k ())) :
    FaultsOnly P (raiseIf c e >>= k) := by
  rcases raiseIf_cases c e with ⟨-, h⟩ | ⟨-, h⟩ <;> rw [h]
  · exact hk
  · exact .error e

theorem FaultsOnly.range {a n : Nat} {k : Unit → Except Stop β} (hk : a + n ≤ Config.nmax → FaultsOnly P (k ())) :
    FaultsOnly P (requireRange a n >>= k) := by
  rcases requireRange_cases a n with ⟨hfit, h⟩ | ⟨-, h⟩ <;> rw [h]
  · exact hk hfit
  · exact .error _

theorem FaultsOnly.source {s : State} {i : PReg} {k : PolyVal → Except Stop β} (hk : ∀ p, FaultsOnly P (k p)) :
    FaultsOnly P (sourcePoly s i >>= k) := by
  rcases sourcePoly_cases s i with ⟨p, -, h⟩ | ⟨-, h⟩ <;> rw [h]
  · exact hk p
  · exact .error _

theorem FaultsOnly.elem {g : ActiveField} {v : Word} {k : Elem → Except Stop β} (hk : ∀ x, FaultsOnly P (k x)) :
    FaultsOnly P (elemOperand g v >>= k) := by
  rcases elemOperand_cases g v with ⟨-, h⟩ | ⟨-, h⟩ <;> rw [h]
  · exact hk _
  · exact .error _

/-- The fault of an entry of the range, in the buffer, that nothing has written (R233). -/
def UnwrittenIn (m : Memory) (r : Range) (f : Fault) : Prop :=
  ∃ a, f = .unwrittenCodeword a ∧ r.start ≤ a ∧ a < r.start + r.count ∧ a < Config.nmax ∧ cwGet m a = none

/-- Reading elements from a range of the buffer stops only on an unwritten entry of the range. -/
theorem FaultsOnly.readElems {m : Memory} {r : Range} (hr : r.start + r.count ≤ Config.nmax) {g : ActiveField}
    {k : PolyVal → Except Stop β} (hk : ∀ w, FaultsOnly (UnwrittenIn m r) (k w)) :
    FaultsOnly (UnwrittenIn m r) (memRead m r.start r.count >>= fun ws => elemList g ws >>= k) := by
  rcases memRead_cases m r.start r.count with ⟨ws, h⟩ | ⟨j, hj, hnone, h⟩ <;> rw [h]
  · rcases elemList_cases g ws with ⟨-, he⟩ | ⟨-, he⟩ <;> rw [bind_okay, he]
    · exact hk _
    · exact .error _
  · rintro _ ⟨⟩
    exact ⟨r.start + j, rfl, by omega, by omega, by omega, hnone⟩

/-- A command stops where its pseudocode does. -/
theorem finish_faultsOnly {s : State} {x : Except Stop State} {f : Fault} (h : finish s x = .fault f) (hx : FaultsOnly P x) : P f :=
  hx f (finish_eq_fault h)

end

/-- GF_CFG completes, well or with E_FIELD_INVALID (R101). -/
theorem execGfCfg_completes (s : State) : ∃ t, execGfCfg s = .next t := by
  cases hok : fieldOk s.operands.fieldM s.operands.fieldPoly with
  | true => exact ⟨_, execGfCfg_accepted hok⟩
  | false => exact ⟨_, execGfCfg_rejected hok⟩

/-- Every command stops only on an unwritten entry of its read range: the checks of its pseudocode do not fault, and MemRead does only
there. -/
theorem exec_fault {s : State} {i : Instr} {f : Fault} (h : exec i s = .fault f) : UnwrittenIn s.cw (i.readRange s) f := by
  cases i with
  | gfCfg =>
    obtain ⟨t, ht⟩ := execGfCfg_completes s
    cases ht.symm.trans h
  | gfAdd | gfMul => exact finish_faultsOnly h <| .check <| .elem fun _ => .elem fun _ => .ok _
  | gfDiv => exact finish_faultsOnly h <| .check <| .elem fun _ => .elem fun _ => .check <| .ok _
  | gfInv | gfLog => exact finish_faultsOnly h <| .check <| .elem fun _ => .check <| .ok _
  | gfExp => exact finish_faultsOnly h <| .check <| .ok _
  | polyStore => exact finish_faultsOnly h <| .check <| .source fun _ => .range fun _ => .ok _
  | polyAdd => exact finish_faultsOnly h <| .check <| .source fun _ => .source fun _ => .ok _
  | polyMul => exact finish_faultsOnly h <| .check <| .source fun _ => .source fun _ => .check <| .ok _
  | polyMulmono => exact finish_faultsOnly h <| .check <| .source fun _ => .elem fun _ => .check <| .ok _
  | polyDiv => exact finish_faultsOnly h <| .check <| .check <| .source fun _ => .source fun _ => .check <| .ok _
  | polyCoef | polyDeg | polyIszero => exact finish_faultsOnly h <| .check <| .source fun _ => .ok _
  | polyEval => exact finish_faultsOnly h <| .check <| .source fun _ => .elem fun _ => .ok _
  | rsGen => exact finish_faultsOnly h <| .check <| .check <| .ok _
  | polyLoad => exact finish_faultsOnly h <| .check <| .check <| .range fun hfit => .readElems hfit fun _ => .ok _
  | rsEncode =>
    have hdata (hfit : s.operands.arg0.toNat + s.operands.arg1.toNat ≤ Config.nmax) :
        (encodeDataRange s).start + (encodeDataRange s).count ≤ Config.nmax :=
      (Nat.add_le_add_left (Nat.sub_le _ _) _).trans hfit
    exact finish_faultsOnly h <| .check <| .check <| .check <| .range fun hfit => .readElems (hdata hfit) fun _ => .ok _
  | rsSynd =>
    exact finish_faultsOnly h <| .check <| .check <| .check <| .range fun hfit => .range fun _ => .readElems hfit fun _ => .ok _

/-- The commands with an entry to read are the three that read codewords (R40). -/
theorem reads_of_readRange_count_pos {s : State} {i : Instr} (h : 0 < (i.readRange s).count) :
    (∃ rd, i = .polyLoad rd) ∨ i = .rsEncode ∨ i = .rsSynd := by
  cases i with
  | polyLoad rd => exact .inl ⟨rd, rfl⟩
  | rsEncode => exact .inr (.inl rfl)
  | rsSynd => exact .inr (.inr rfl)
  | gfCfg | gfAdd | gfMul | gfDiv | gfInv | gfExp | gfLog => cases h
  | polyStore | polyAdd | polyMul | polyMulmono | polyDiv | polyCoef | polyDeg | polyIszero | polyEval | rsGen => cases h

/-- No command is refused: each is a `finish`, but for GF_CFG, which always completes. -/
theorem exec_ne_refused (s : State) (i : Instr) (r : Refusal) : exec i s ≠ .refused r := by
  cases i with
  | gfCfg =>
    obtain ⟨t, ht⟩ := execGfCfg_completes s
    exact fun h => (nomatch ht.symm.trans h)
  | gfAdd | gfMul | gfDiv | gfInv | gfExp | gfLog | polyLoad | polyStore | polyAdd | polyMul | polyMulmono | polyDiv | polyCoef
  | polyDeg | polyIszero | polyEval | rsGen | rsEncode | rsSynd => exact finish_ne_refused s _ r

/-! ### The faults of the window -/

/-- An aligned offset that holds a codeword is that entry's (R62). -/
theorem offset_of_locate_codeword {offset a : Nat} (ha : offset % 4 = 0) (h : locate offset = .codeword a) :
    offset = 0x4000 + 4 * a := by
  by_cases hc : Config.cwBase ≤ offset
  · rw [locate_window hc] at h
    cases h
    rw [Config.cwBase] at hc
    omega
  · rw [locate, if_neg hc] at h
    repeat (rcases ite_eq_iff.mp h with ⟨-, h⟩ | ⟨-, h⟩; · cases h)
    cases h

theorem idleRead_unwritten {s : State} {a : Nat} (h : cwGet s.cw a = none) :
    idleRead s (.codeword a) = .error (.unwrittenCodeword a) := by
  rw [idleRead, h]

theorem idleRead_error {s : State} {loc : Location} {f : Fault} (h : idleRead s loc = .error f) :
    ∃ a, loc = .codeword a ∧ f = .unwrittenCodeword a ∧ cwGet s.cw a = none := by
  cases loc with
  | codeword a =>
    cases hc : cwGet s.cw a with
    | none => exact ⟨a, rfl, (Except.error.inj ((idleRead_unwritten hc).symm.trans h)).symm, hc⟩
    | some c =>
      rw [idleRead_codeword hc] at h
      cases h
  | id | caps | ctrl | status | cmd | result | cacheDeg | fieldM | fieldPoly | fieldBase | arg0 | arg1 | arg2 | arg3 | reserved =>
    cases h

/-- How a legal read ends: with an answer, or, of an idle block, with the fault of an unwritten entry. -/
theorem busRead_cases (s : State) (loc : Location) :
    (∃ t, busRead s loc = .next t) ∨ ∃ f, s.busy = false ∧ idleRead s loc = .error f ∧ busRead s loc = .fault f := by
  cases hb : s.busy with
  | true =>
    cases hr : busyRead s loc with
    | some v => exact .inl ⟨_, busRead_busy hb hr⟩
    | none => exact .inl ⟨_, busRead_busy_free hb hr⟩
  | false =>
    cases hr : idleRead s loc with
    | ok v => exact .inl ⟨_, busRead_idle hb hr⟩
    | error f => exact .inr ⟨f, rfl, rfl, by rw [busRead, if_neg (by simp [hb]), hr]⟩

/-- How an access ends: with an answer, outside the window, or at an idle read of an unwritten entry. -/
theorem busAccess_cases (s : State) (b : Access) :
    (∃ t, busAccess s b = .next t) ∨
    (∃ offset, Config.windowBytes ≤ offset ∧ busAccess s b = .fault (.outsideWindow offset) ∧
      ((∃ w, b = .read w offset) ∨ ∃ w v, b = .write w offset v)) ∨
    (s.busy = false ∧ ∃ a, b = .read .word (0x4000 + 4 * a) ∧ a < Config.nmax ∧
      busAccess s b = .fault (.unwrittenCodeword a) ∧ cwGet s.cw a = none) := by
  cases b with
  | write w offset v =>
    by_cases hw : Config.windowBytes ≤ offset
    · exact .inr (.inl ⟨offset, hw, if_pos hw, .inr ⟨w, v, rfl⟩⟩)
    · left
      rw [busAccess, if_neg hw]
      split
      · exact ⟨_, rfl⟩
      · exact ⟨_, rfl⟩
  | read w offset =>
    by_cases hw : Config.windowBytes ≤ offset
    · exact .inr (.inl ⟨offset, hw, if_pos hw, .inl ⟨w, rfl⟩⟩)
    by_cases hl : legalAccess w offset = true
    · obtain ⟨rfl, ha⟩ : w = .word ∧ offset % 4 = 0 := by simpa [legalAccess] using hl
      rw [busAccess_read_aligned (not_le.mp hw) ha]
      refine (busRead_cases s (locate offset)).imp_right fun ⟨f, hb, hidle, hf⟩ => .inr ⟨hb, ?_⟩
      obtain ⟨a, hloc, rfl, hnone⟩ := idleRead_error hidle
      obtain rfl := offset_of_locate_codeword ha hloc
      exact ⟨a, rfl, locate_codeword_lt (not_le.mp hw) hloc, hf, hnone⟩
    · left
      rw [busAccess, if_neg hw, if_neg hl]
      exact ⟨_, rfl⟩

theorem busAccess_ne_refused (s : State) (b : Access) (r : Refusal) : busAccess s b ≠ .refused r := by
  rcases busAccess_cases s b with ⟨t, h⟩ | ⟨_, -, h, -⟩ | ⟨-, _, -, -, h, -⟩ <;> rw [h] <;> exact nofun

theorem busAccess_read_unwritten {s : State} {a : Nat} (hb : s.busy = false) (ha : a < Config.nmax) (h : cwGet s.cw a = none) :
    busAccess s (.read .word (0x4000 + 4 * a)) = .fault (.unwrittenCodeword a) := by
  have hw : 0x4000 + 4 * a < Config.windowBytes := by
    simp only [Config.windowBytes, Config.cwBase, Config.nmax] at *
    omega
  rw [busAccess_read_aligned hw (by omega), locate_codeword, busRead, if_neg (by simp [hb]), idleRead_unwritten h]

/-- Settles O23: commands stop in MemRead alone, accesses as `busAccess_cases` lists. -/
theorem onlyUnwrittenReadsStop : Obligations.OnlyUnwrittenReadsStop := by
  refine ⟨fun s i f h => ?_, exec_ne_refused, fun s b f h => ?_, busAccess_ne_refused, fun _ _ => busAccess_read_unwritten⟩
  · obtain ⟨a, hf, hlo, hhi, hmax, hnone⟩ := exec_fault h
    exact ⟨reads_of_readRange_count_pos (s := s) (by omega), a, hf, hlo, hhi, hmax, hnone⟩
  · rcases busAccess_cases s b with ⟨t, ht⟩ | ⟨offset, hw, ho, hb⟩ | ⟨hidle, a, hb, ha, hr, hnone⟩
    · rw [ht] at h
      cases h
    · exact .inl ⟨offset, hw, (Host.Outcome.fault.inj (ho.symm.trans h)).symm, hb⟩
    · exact .inr ⟨hidle, a, hb, ha, (Host.Outcome.fault.inj (hr.symm.trans h)).symm, hnone⟩

end Sys2Proof.Machine
